-- ==== Sys2Proof/Word.lean ====
section
/-! DEFINITION. The word types of the SH1106 frame transfer block (spec 00_scope.md R16, R17).
A byte is 8 bits and a host request word 16 bits. A host address is a `Nat`, exact: the block's address
arithmetic never wraps (20_memory.md R75), and the width `ADDR_W` is a bound, stated where an address is checked or kept. -/

namespace Sys2Proof

/-- A byte, `0x00` to `0xFF` (R16): the only unit the block moves (R76). -/
abbrev Byte := BitVec 8

/-- The 16-bit host request word `w[15:0]` (R110). -/
abbrev ReqWord := BitVec 16

end Sys2Proof
end

