-- ==== Sys2Proof/Config.lean ====
section
/-! DEFINITION. The configuration record (spec 00_scope.md section 3, rules R6 to R15) and the free values.
A parameter the spec marks OPEN is a field here, so a claim holds for every value of it. What the spec leaves to any
value is an opaque constant with no body: no proof can see what it is. -/

namespace Sys2Proof

/-- The implementation parameters, fixed before reset (R283.1). The record stands in `Machine.State` and no step writes
it (assumption 1). `Config.wf` (WellFormed.lean) states the spec's bounds. -/
structure Config where
  /-- Number of pages of the panel; this hardware's value is 8 (R6). -/
  kNumPages : Nat
  /-- Bytes (columns) in one page; this hardware's value is 128 (R7). -/
  kPageSize : Nat
  /-- Bytes in one DMA burst; OPEN (R8). -/
  kSubpageSize : Nat
  /-- Width in bits of a host address, `ADDR_W`; OPEN (R11). -/
  addrW : Nat
  /-- The opaque initialization command table; OPEN (R13). -/
  initTable : List Byte
  /-- The "command" clock setting, an opaque identifier; OPEN (R14). -/
  clkCmd : Nat
  /-- The normal operating clock setting, an opaque identifier; OPEN (R14). -/
  clkNormal : Nat
  /-- The reset pulse width; OPEN, never counted by the block (R15, R259). -/
  tRstPulse : Nat
  /-- The settle delay after reset release; OPEN, never counted by the block (R15, R259). -/
  tRstSettle : Nat
deriving DecidableEq, Repr

/-- `kColumnOffset`, the offset `AdjustOffset` would apply: fixed at 0, and no rule adds it (R12, U11). -/
def Config.kColumnOffset : Nat := 0

/-- The columns of the reference panel's display RAM: 132 on the SH1106 (R140; assumption 7). -/
def Config.panelColumns : Nat := 132

/-- The configuration `State.reset` carries (assumption 1, DESIGN CHOICE): the geometry of R6 and R7, the example values
`kSubpageSize = 64` and `ADDR_W = 32` of 95_test_vectors.md, an empty table, and zero for the opaque identifiers. -/
def Config.reference : Config :=
  { kNumPages := 8, kPageSize := 128, kSubpageSize := 64, addrW := 32, initTable := [],
    clkCmd := 0, clkNormal := 0, tRstPulse := 0, tRstSettle := 0 }

/-- The four agents of the block (R4). -/
inductive Agent where
  | host
  | engine
  | dma
  | bus
deriving DecidableEq, Repr, Inhabited

/-- FREE VALUE (assumption 2): the agent that takes the `n`-th turn the schedule in State does not name. R229: "the
choice is free". -/
opaque Config.freeAgent : Nat → Agent

/-- FREE VALUE (assumption 8): the reference panel's page register where the panel reading defines none (U8, U9). -/
opaque Config.freePanelPage : Nat → BitVec 3

/-- FREE VALUE (assumption 8): the reference panel's column register where the panel reading defines none. -/
opaque Config.freePanelColumn : Nat → BitVec 8

/-- FREE VALUE (assumption 8): the reference panel's display-enable bit where the panel reading defines none. -/
opaque Config.freePanelOn : Nat → Bool

/-- FREE VALUE (assumption 8): what a cell of the reference panel's display RAM holds that no data byte has written
since the reading last lost the RAM. -/
opaque Config.freePanelByte : Nat → Nat → Byte

end Sys2Proof
end

