-- ==== Sys2Proof/Syntax.lean ====
section
/-! DEFINITION. The instructions (every row of spec/opcode_table.json), their encoded forms, the host's actions and the
assembler's lines (spec 30_encoding.md). -/

namespace Sys2Proof

/-- The mode select the panel samples with each byte (R40, R100): command or data. -/
inductive DcMode where
  | cmd
  | data
deriving DecidableEq, Repr

/-- One constructor per row of spec/opcode_table.json: five host requests (R111) and six panel bytes (R101 to R105). -/
inductive Instr where
  /-- `INIT`, request word `0x1000` (R159). -/
  | init
  /-- `CLEAR`, request word `0x2000` (R191). -/
  | clear
  /-- `SEND_PAGE pg, sp, base`, request word `0x3000 | pg<<8 | sp` and one address operand (R180). -/
  | sendPage (pg : BitVec 4) (sp : BitVec 8) (base : Nat)
  /-- `FLUSH`, request word `0x4000` (R187). -/
  | flush
  /-- `ADJUST_OFFSET`, request word `0x5000` (R201). -/
  | adjustOffset
  /-- `SET_COL_HI`, command byte `0x10 | h` (R101). -/
  | setColHi (h : BitVec 4)
  /-- `SET_COL_LO`, command byte `l` (R102). -/
  | setColLo (l : BitVec 4)
  /-- `SET_PAGE`, command byte `0xB0 | p` (R103). -/
  | setPage (p : BitVec 4)
  /-- `DISPLAY_ON`, command byte `0xAF` (R104, R136). -/
  | displayOn
  /-- `DISPLAY_OFF`, command byte `0xAE` (R104, R137). -/
  | displayOff
  /-- `DATA`, any byte under `P.dc = Data` (R105). -/
  | data (d : Byte)
deriving DecidableEq, Repr

/-- The encoded form of an instruction: a request word with its operand (R110, R115), or a panel byte with the mode
select it leaves with (R100). -/
inductive Encoded where
  | request (w : ReqWord) (operand : Option Nat)
  | panel (dc : DcMode) (b : Byte)
deriving DecidableEq, Repr

/-- One action of the host program (R224): a raw request (R116 `REQ`; a `SEND_PAGE` carries its `base`), a `WRITE`
(R225) or a `READ_STATUS` (R227). -/
inductive Action where
  | request (w : ReqWord) (base : Option Nat)
  | write (a : Nat) (v : Byte)
  | readStatus
deriving DecidableEq, Repr

/-- One line of host assembler, its numbers as written (R116), with the two pseudo-instructions (R117, R118). -/
inductive AsmLine where
  | init
  | clear
  | sendPage (page subpage base : Nat)
  | flush
  | adjustOffset
  | write (addr byte : Nat)
  | readStatus
  | req (word : Nat) (base : Option Nat)
  | sendSubpage (page subpage base : Nat)
  | sendFrame (fb : Nat)
deriving DecidableEq, Repr

end Sys2Proof
end

