-- ==== Sys2Proof/WellFormed.lean ====
section
/-! DEFINITION. Well-formedness of a configuration (R6 to R8) and of an instruction (R110). Every other bound is
carried by a field's type. (Which host actions can be encoded is `Action.encodable`, in Decode.lean.) -/

namespace Sys2Proof

/-- The spec's bounds on the parameters: `1 <= kNumPages <= 16` (R6), `1 <= kPageSize <= 256` (R7), and
`kSubpageSize >= 1` with `kPageSize % kSubpageSize = 0` (R8). -/
abbrev Config.wf (c : Config) : Prop :=
  1 ≤ c.kNumPages ∧ c.kNumPages ≤ 16 ∧ 1 ≤ c.kPageSize ∧ c.kPageSize ≤ 256 ∧
    1 ≤ c.kSubpageSize ∧ c.kPageSize % c.kSubpageSize = 0

/-- The geometry of this hardware: `kNumPages = 8` (R6) and `kPageSize = 128` (R7). -/
abbrev Config.thisPanel (c : Config) : Prop := c.kNumPages = 8 ∧ c.kPageSize = 128

/-- An address operand has `ADDR_W` bits (R110): it is at most `2^ADDR_W - 1`. -/
abbrev Config.fitsAddr (c : Config) (a : Nat) : Prop := a < 2 ^ c.addrW

/-- An instruction is well-formed when its operand fits its field; only `SEND_PAGE`'s `base` needs a check (R110). Range
errors of `pg` and `sp` against the panel are not form errors: `ACCEPT` raises `F_ARG_RANGE` for them (R114). -/
def Instr.wf (c : Config) : Instr → Bool
  | .sendPage _ _ base => decide (c.fitsAddr base)
  | .init | .clear | .flush | .adjustOffset => true
  | .setColHi _ | .setColLo _ | .setPage _ | .displayOn | .displayOff | .data _ => true

end Sys2Proof
end

