-- ==== Sys2Proof/Decode.lean ====
section
/-! DEFINITION. The two decoders of the block, total and rejecting by name, and the encoder written from the same
encoding tables (spec 30_encoding.md; opcode_table.json). -/

namespace Sys2Proof

/-- Why a form decodes to no instruction. -/
inductive Reject where
  /-- `op = 0x0` or `op` in `0x6` to `0xF` (R113): the word is ILLEGAL. -/
  | reservedOp
  /-- `op` in 1, 2, 4, 5 with `w[11:0] != 0` (R112): the word is ILLEGAL. -/
  | reservedBits
  /-- An operand is missing, or stands where R115 allows none. -/
  | operandMismatch
  /-- A command byte outside R101 to R104: the block emits it, opaque, from `InitTable` only (R107, R108). -/
  | opaqueCommand
deriving DecidableEq, Repr

/-! ## Fields of a request word (R110) -/

/-- `op = w[15:12]`. -/
def ReqWord.op (w : ReqWord) : BitVec 4 := w.extractLsb' 12 4

/-- `pg = w[11:8]`, the page index of `SEND_PAGE`. -/
def ReqWord.pg (w : ReqWord) : BitVec 4 := w.extractLsb' 8 4

/-- `sp = w[7:0]`, the sub-page offset of `SEND_PAGE`. -/
def ReqWord.sp (w : ReqWord) : BitVec 8 := w.extractLsb' 0 8

/-- `w[11:0]`, reserved in every request but `SEND_PAGE` (R112). -/
def ReqWord.low (w : ReqWord) : BitVec 12 := w.extractLsb' 0 12

/-- A word with `op = 0x3` is followed by one operand, and every other word by nothing (R115). -/
def ReqWord.takesOperand (w : ReqWord) : Bool := ReqWord.op w == 0x3#4

/-! ## Decoding -/

/-- A request that takes no operand: `w[11:0]` must be zero (R112). -/
def decodeBare (w : ReqWord) (i : Instr) : Except Reject Instr :=
  if ReqWord.low w = 0#12 then .ok i else .error .reservedBits

/-- `decode(w)` of R114, with the latched operand for `SEND_PAGE`. -/
def decodeRequest (w : ReqWord) (base : Nat) : Except Reject Instr :=
  if ReqWord.op w = 0x1#4 then decodeBare w .init
  else if ReqWord.op w = 0x2#4 then decodeBare w .clear
  else if ReqWord.op w = 0x3#4 then .ok (.sendPage (ReqWord.pg w) (ReqWord.sp w) base)
  else if ReqWord.op w = 0x4#4 then decodeBare w .flush
  else if ReqWord.op w = 0x5#4 then decodeBare w .adjustOffset
  else .error .reservedOp

/-- The high nibble of a panel byte, fixed in each addressing byte (R101 to R103). -/
def Byte.high (b : Byte) : BitVec 4 := b.extractLsb' 4 4

/-- The low nibble of a panel byte, the field of each addressing byte (R101 to R103). -/
def Byte.low (b : Byte) : BitVec 4 := b.extractLsb' 0 4

/-- The class of a command byte (R101 to R104). -/
def decodeCommand (b : Byte) : Except Reject Instr :=
  if b = 0xAF#8 then .ok .displayOn
  else if b = 0xAE#8 then .ok .displayOff
  else if Byte.high b = 0x1#4 then .ok (.setColHi (Byte.low b))
  else if Byte.high b = 0x0#4 then .ok (.setColLo (Byte.low b))
  else if Byte.high b = 0xB#4 then .ok (.setPage (Byte.low b))
  else .error .opaqueCommand

/-- The class of a byte leaving with mode select `dc` (R100, R105): under Data, every byte is data. -/
def decodePanelByte (dc : DcMode) (b : Byte) : Except Reject Instr :=
  match dc with
  | .cmd => decodeCommand b
  | .data => .ok (.data b)

/-- Decoding of an encoded form: an operand must stand exactly where R115 asks for one. -/
def decode : Encoded → Except Reject Instr
  | .request w (some base) =>
    if ReqWord.takesOperand w then decodeRequest w base else .error .operandMismatch
  | .request w none =>
    if ReqWord.takesOperand w then .error .operandMismatch else decodeRequest w 0
  | .panel dc b => decodePanelByte dc b

/-! ## Encoding -/

/-- `SEND_PAGE`'s word, `0x3000 | pg<<8 | sp` (R111, R116). -/
def sendPageWord (pg : BitVec 4) (sp : BitVec 8) : ReqWord := 0x3#4 ++ pg ++ sp

/-- `SET_COL_HI`, `0b0001hhhh` (R101). -/
def setColHiByte (h : BitVec 4) : Byte := 0x1#4 ++ h

/-- `SET_COL_LO`, `0b0000llll` (R102). -/
def setColLoByte (l : BitVec 4) : Byte := 0x0#4 ++ l

/-- `SET_PAGE`, `0b1011pppp` (R103). -/
def setPageByte (p : BitVec 4) : Byte := 0xB#4 ++ p

/-- `DISPLAY_ON`, `0xAF` (R104). -/
def displayOnByte : Byte := 0xAF#8

/-- `DISPLAY_OFF`, `0xAE` (R104). -/
def displayOffByte : Byte := 0xAE#8

/-- The encoded form of each instruction (R101 to R105, R111). -/
def encode : Instr → Encoded
  | .init => .request 0x1000#16 none
  | .clear => .request 0x2000#16 none
  | .sendPage pg sp base => .request (sendPageWord pg sp) (some base)
  | .flush => .request 0x4000#16 none
  | .adjustOffset => .request 0x5000#16 none
  | .setColHi h => .panel .cmd (setColHiByte h)
  | .setColLo l => .panel .cmd (setColLoByte l)
  | .setPage p => .panel .cmd (setPageByte p)
  | .displayOn => .panel .cmd displayOnByte
  | .displayOff => .panel .cmd displayOffByte
  | .data d => .panel .data d

/-! ## The host actions an assembler can encode (R115, R116) -/

/-- An operand stands exactly where R115 asks for one, and no address is above `2^ADDR_W - 1` (R116). -/
def Action.encodable (c : Config) : Action → Bool
  | .request w (some base) => ReqWord.takesOperand w && decide (c.fitsAddr base)
  | .request w none => !ReqWord.takesOperand w
  | .write a _ => decide (c.fitsAddr a)
  | .readStatus => true

/-! ## The opcode table, and the decoder on its numbering -/

/-- One row of opcode_table.json: its mnemonic, and `mask` and `value` over the row's bits (16 for a request word, 8 for
a panel byte under the mode select `dc`). -/
structure Row where
  mnemonic : String
  dc : Option DcMode
  mask : Nat
  value : Nat
deriving DecidableEq, Repr

/-- The eleven rows of opcode_table.json. -/
def opcodeTable : List Row :=
  [⟨"INIT", none, 0xFFFF, 0x1000⟩, ⟨"CLEAR", none, 0xFFFF, 0x2000⟩, ⟨"SEND_PAGE", none, 0xF000, 0x3000⟩,
   ⟨"FLUSH", none, 0xFFFF, 0x4000⟩, ⟨"ADJUST_OFFSET", none, 0xFFFF, 0x5000⟩,
   ⟨"SET_COL_HI", some .cmd, 0xF0, 0x10⟩, ⟨"SET_COL_LO", some .cmd, 0xF0, 0x00⟩,
   ⟨"SET_PAGE", some .cmd, 0xF0, 0xB0⟩, ⟨"DISPLAY_ON", some .cmd, 0xFF, 0xAF⟩,
   ⟨"DISPLAY_OFF", some .cmd, 0xFF, 0xAE⟩, ⟨"DATA", some .data, 0x00, 0x00⟩]

/-- The mnemonic of an instruction's row. -/
def Instr.mnemonic : Instr → String
  | .init => "INIT"
  | .clear => "CLEAR"
  | .sendPage _ _ _ => "SEND_PAGE"
  | .flush => "FLUSH"
  | .adjustOffset => "ADJUST_OFFSET"
  | .setColHi _ => "SET_COL_HI"
  | .setColLo _ => "SET_COL_LO"
  | .setPage _ => "SET_PAGE"
  | .displayOn => "DISPLAY_ON"
  | .displayOff => "DISPLAY_OFF"
  | .data _ => "DATA"

/-- A request word, or a panel byte with its mode select, matches a row: `w & mask = match`. -/
def Row.fits (r : Row) : Encoded → Bool
  | .request w _ => decide (r.dc = none) && decide (w.toNat &&& r.mask = r.value)
  | .panel dc b => decide (r.dc = some dc) && decide (b.toNat &&& r.mask = r.value)

/-- The mode select under which a panel byte given without one is read (assumption 4): a command where the byte is one
of R101 to R104, and data otherwise. -/
def tableDc (b : Byte) : DcMode :=
  match decodeCommand b with
  | .ok _ => .cmd
  | .error _ => .data

/-- A row's bits of at most 8 are a panel byte; more are a request word (R100, R110). -/
def isPanelWidth (nbits : Nat) : Bool := decide (nbits ≤ 8)

/-- The instruction the decoders read from a row's bits `w`: the first 16 are the request word and any further bits its
operand (R110, R115). -/
def decodeTableWord (nbits w : Nat) : Option Instr :=
  if isPanelWidth nbits then
    (decodePanelByte (tableDc (BitVec.ofNat 8 w)) (BitVec.ofNat 8 w)).toOption
  else
    (decodeRequest (BitVec.ofNat 16 w) (w >>> 16)).toOption

end Sys2Proof
end

