-- ==== Sys2Proof/Machine/State.lean ====
section
/-! DEFINITION. The machine's state as plain data (spec 10_state.md; INVENTORY.md '## State' lists every field with its
rule and reset value), the reasons a step can stop, and the state after reset (R280). -/

namespace Sys2Proof.Machine

/-! ## The symbols state is made of -/

/-- `E.phase` (R30). -/
inductive Phase where
  | idle
  | commandPhase
  | dataPhaseAsync
deriving DecidableEq, Repr

/-- `E.seq`, the sequencer position (R31). -/
inductive Seq where
  | rest | accept
  | spClk | spCs | spCmd | spCmdWait | spDc | spDma | spFlag
  | flDma | flDrain | flCs | flFlag | flRst
  | clCs | clCmd | clCmdWait | clData | clDataWait | clOn | clOnWait | clEnd
  | inPins | inRstA | inRstR | inClkC | inTbl | inTblWait | inClkN | inDone
deriving DecidableEq, Repr

/-- `E.cmdbuf[0..2]`, the command buffer (R32), in wire order (R106). -/
structure CmdBuf where
  b0 : Byte
  b1 : Byte
  b2 : Byte
deriving DecidableEq, Repr

/-- `E.ret`: where `Clear` returns (R38). -/
inductive ClearReturn where
  | host
  | init
deriving DecidableEq, Repr

/-- `P.cs` (R39). -/
inductive CsLevel where
  | asserted
  | deasserted
deriving DecidableEq, Repr

/-- `P.rst` (R41). -/
inductive RstLevel where
  | asserted
  | released
deriving DecidableEq, Repr

/-- A bus clock rate the block sets (R14, R54). -/
inductive Rate where
  | cmd
  | normal
deriving DecidableEq, Repr

/-- `P.clk` (R42). -/
inductive Clk where
  | unset
  | cmd
  | normal
deriving DecidableEq, Repr

/-- Which reset delay an `EvDelay` records (R54). -/
inductive Delay where
  | pulse
  | settle
deriving DecidableEq, Repr

/-- The seven fault codes (R251). -/
inductive FaultCode where
  | sendPageInflight
  | fbWriteInflight
  | argRange
  | addrRange
  | notInit
  | busy
  | illegalReq
deriving DecidableEq, Repr

/-- The info a fault records (R251). -/
inductive FaultInfo where
  | none
  | addr (a : Nat)
  | args (p s : Nat)
  | base (b : Nat)
  | word (w : ReqWord)
deriving DecidableEq, Repr

/-- An event of the trace (R54). -/
inductive Event where
  | pinCfg
  | rst (level : RstLevel)
  | delay (which : Delay)
  | clk (rate : Rate)
  | cs (level : CsLevel)
  | dc (mode : DcMode)
  | tx (cs : CsLevel) (dc : DcMode) (b : Byte)
  | dmaRd (a : Nat) (b : Byte)
  | hostWr (a : Nat) (b : Byte)
  | status (v : BitVec 16)
  | fault (code : FaultCode) (info : FaultInfo)
deriving DecidableEq, Repr

/-- Bytes listed by address (or by cell), keys strictly rising. -/
abbrev Memory := List Host.Cell

/-- The reference panel (R140, general knowledge; assumptions 7 and 8). No rule of the block reads it (R145). -/
structure Panel where
  /-- `PR`, the page register. -/
  page : BitVec 3
  /-- `CR`, the column register. -/
  column : BitVec 8
  /-- `ON`, the display-enable bit. -/
  on : Bool
  /-- `GD`, the display RAM: the cells a data byte has written since `lost` last changed. -/
  ram : Memory
  /-- The model's own counter: how often the panel reading has left the panel open. It indexes the free values. -/
  lost : Nat
deriving DecidableEq, Repr

/-! ## The state -/

/-- Everything the spec gives the machine (10_state.md, 20_memory.md, 43_transport_agents.md). -/
structure State where
  /-- The configuration, fixed before reset (R283.1); no step writes it. -/
  cfg : Config
  /-- `E.phase` (R30). -/
  phase : Phase
  /-- `E.seq` (R31). -/
  seq : Seq
  /-- `E.cmdbuf` (R32). -/
  cmdbuf : CmdBuf
  /-- `E.inflight` (R33). -/
  inflight : Bool
  /-- `E.initialised` (R34). -/
  initialised : Bool
  /-- `E.fault[6:0]` (R35). -/
  fault : BitVec 7
  /-- `E.req_word[15:0]` (R36). -/
  reqWord : ReqWord
  /-- `E.req_base[ADDR_W-1:0]` (R36). -/
  reqBase : Nat
  /-- `E.xfer_base[ADDR_W-1:0]` (R37). -/
  xferBase : Nat
  /-- `E.clear_page`, 0 to `kNumPages` (R38). -/
  clearPage : Nat
  /-- `E.ret` (R38). -/
  ret : ClearReturn
  /-- `P.cs` (R39). -/
  cs : CsLevel
  /-- `P.dc` (R40). -/
  dc : DcMode
  /-- `P.rst` (R41). -/
  rst : RstLevel
  /-- `P.clk` (R42). -/
  clk : Clk
  /-- `P.cfg` (R43). -/
  pinCfg : Bool
  /-- `D.src[ADDR_W:0]` (R44). -/
  dmaSrc : Nat
  /-- `D.remaining`, 0 to `kSubpageSize` (R44). -/
  dmaRemaining : Nat
  /-- `D.active` (R44). -/
  dmaActive : Bool
  /-- `D.done` (R44). -/
  dmaDone : Bool
  /-- `B.txq`, the bus transmit queue, head first (R47). -/
  txq : List Byte
  /-- `Mem`, host memory (R70). -/
  mem : Memory
  /-- `T`, the trace, oldest event first (R55). -/
  trace : List Event
  /-- The reference panel behind the bus (R140 to R144). -/
  panel : Panel
  /-- The actions left of the host program (R224). -/
  prog : List Action
  /-- The schedule: which agents take the coming turns (R229; assumption 2). -/
  sched : List Agent
  /-- The model's own counter: how many turns were taken from `Config.freeAgent` (assumption 2). -/
  turn : Nat
deriving DecidableEq, Repr

/-- The reasons a step stops with a fault. -/
inductive Fault where
  /-- Raised by the DMA step where `D.src` is not an address of `Mem` (R70). Safe: the machine stops where the spec gives
  no byte, and no state that `State.Sound` holds of reaches it (assumption 9). -/
  | dmaBeyondMemory
deriving DecidableEq, Repr

/-- The reasons a step is refused. -/
inductive Refusal where
  /-- Raised by `exec` for an instruction with no meaning yet. Safe: nothing runs. No arm is left so. -/
  | notModelled (mnemonic : String)
  /-- Raised by the host step for an action no assembler can encode (R116). Safe: the machine stops where the spec gives
  no action (assumption 9). -/
  | unencodableAction
deriving DecidableEq, Repr

/-- What an agent's step answers. -/
abbrev Result := Host.Outcome State Fault Refusal

/-! ## Reset -/

/-- The reference panel at power-on (assumption 7, PRESUMED: the family's values). -/
def Panel.powerOn : Panel := { page := 0, column := 0, on := false, ram := [], lost := 0 }

/-- Block reset under the configuration `c` (R280; the fields R280 leaves unspecified as assumption 6 says). -/
def State.resetWith (c : Config) : State :=
  { cfg := c
    phase := .idle, seq := .rest, inflight := false, initialised := false, fault := 0
    cmdbuf := ⟨0, 0, 0⟩, reqWord := 0, reqBase := 0, xferBase := 0, clearPage := 0, ret := .host
    cs := .deasserted, dc := .cmd, rst := .released, clk := .unset, pinCfg := false
    dmaSrc := 0, dmaRemaining := 0, dmaActive := false, dmaDone := false
    txq := [], mem := [], trace := [], panel := Panel.powerOn
    prog := [], sched := [], turn := 0 }

/-- The machine right after reset (R280, R282): at `REST`, with no host program and nothing scheduled. -/
def State.reset : State := State.resetWith Config.reference

/-- A launch state (R231): reset, with the launch inputs `Mem` (R70), the host program (R224) and the schedule (R229). -/
def State.launch (c : Config) (mem : Memory) (prog : List Action) (sched : List Agent) : State :=
  { State.resetWith c with mem := mem, prog := prog, sched := sched }

end Sys2Proof.Machine
end

