-- ==== Sys2Proof/Machine/Memory.lean ====
section
/-! DEFINITION. Reading and writing single bytes of a canonical list of cells (R70, R76). -/

namespace Sys2Proof.Machine

/-- What an unlisted address of `Mem` reads as (assumption 5, DESIGN CHOICE: the spec makes the launch contents an
input, R70). -/
def Memory.unlisted : Byte := 0x00#8

/-- The byte listed at `a`, if any. -/
def Memory.find (a : Nat) : Memory → Option Byte
  | [] => none
  | c :: rest => if a = c.1 then some c.2 else Memory.find a rest

/-- List `v` at `a`, replacing what is listed there. -/
def Memory.set (a : Nat) (v : Byte) : Memory → Memory
  | [] => [(a, v)]
  | c :: rest =>
    if a < c.1 then (a, v) :: c :: rest
    else if a = c.1 then (a, v) :: rest
    else c :: Memory.set a v rest

/-- List nothing at `a`. -/
def Memory.erase (a : Nat) : Memory → Memory
  | [] => []
  | c :: rest => if a = c.1 then rest else c :: Memory.erase a rest

/-- `MemRead(a, 1)` (R17). -/
def Memory.read (m : Memory) (a : Nat) : Byte := (Memory.find a m).getD Memory.unlisted

/-- `MemWrite(a, 1, v)` (R17): writing what an unlisted address reads as removes the entry. -/
def Memory.write (m : Memory) (a : Nat) (v : Byte) : Memory :=
  if v = Memory.unlisted then Memory.erase a m else Memory.set a v m

/-- Keys strictly rising: no address is listed twice. -/
abbrev Memory.rising (m : Memory) : Prop := (m.map Prod.fst).Pairwise (· < ·)

/-- The canonical form: keys strictly rising, and no entry equal to what an unlisted address reads as. -/
abbrev Memory.wf (m : Memory) : Prop := Memory.rising m ∧ ∀ c ∈ m, c.2 ≠ Memory.unlisted

end Sys2Proof.Machine
end

