-- ==== Sys2Proof/Machine/PanelReading.lean ====
section
/-! DEFINITION. The reference reading of the panel (spec 40_command_encoder.md section 3, R140 to R144, general
knowledge). It observes the trace; no rule of the block reads it (R145). Where the reading defines nothing (U8, U9, any
other command byte, the hardware reset) every register and cell of the panel becomes a free value (assumption 8). -/

namespace Sys2Proof.Machine

/-- The key of display RAM cell `GD[page][column]` (R140). -/
def Panel.cell (page column : Nat) : Nat := page * Config.panelColumns + column

/-- What `GD[page][column]` holds: the byte written there, or a free value. -/
def Panel.pixels (p : Panel) (page column : Nat) : Byte :=
  match Memory.find (Panel.cell page column) p.ram with
  | some b => b
  | none => Config.freePanelByte p.lost (Panel.cell page column)

/-- The reading says nothing of the panel from here on: each register and cell is a free value. -/
def Panel.lose (p : Panel) : Panel :=
  { page := Config.freePanelPage (p.lost + 1), column := Config.freePanelColumn (p.lost + 1),
    on := Config.freePanelOn (p.lost + 1), ram := [], lost := p.lost + 1 }

/-- `SET_COL_HI`: `CR[7:4] <- h`, the other half unchanged (R142). -/
def Panel.setColumnHigh (h : BitVec 4) (p : Panel) : Panel :=
  { p with column := h ++ Byte.low p.column }

/-- `SET_COL_LO`: `CR[3:0] <- l`, the other half unchanged (R142). -/
def Panel.setColumnLow (l : BitVec 4) (p : Panel) : Panel :=
  { p with column := Byte.high p.column ++ l }

/-- `SET_PAGE`: `0xB0 .. 0xB7` set `PR <- b[2:0]`; `0xB8 .. 0xBF` have no meaning the reading relies on (R141, U8). -/
def Panel.selectPage (pg : BitVec 4) (p : Panel) : Panel :=
  if pg.toNat < 8 then { p with page := pg.extractLsb' 0 3 } else p.lose

/-- `DISPLAY_ON` and `DISPLAY_OFF`: `ON <- 1`, `ON <- 0` (R144). -/
def Panel.setOn (v : Bool) (p : Panel) : Panel := { p with on := v }

/-- A data byte: `GD[PR][CR] <- d`, then `CR <- CR + 1`, `PR` unchanged (R143). A write past the last RAM column is not
defined (U9). -/
def Panel.writeData (d : Byte) (p : Panel) : Panel :=
  if p.column.toNat < Config.panelColumns then
    { p with ram := Memory.set (Panel.cell p.page.toNat p.column.toNat) d p.ram, column := p.column + 1 }
  else p.lose

/-- What the panel does with one panel byte; a host request is no panel byte and never reaches it. -/
def Panel.perform (i : Instr) (p : Panel) : Panel :=
  match i with
  | .setColHi h => p.setColumnHigh h
  | .setColLo l => p.setColumnLow l
  | .setPage pg => p.selectPage pg
  | .displayOn => p.setOn true
  | .displayOff => p.setOn false
  | .data d => p.writeData d
  | .init => p
  | .clear => p
  | .sendPage _ _ _ => p
  | .flush => p
  | .adjustOffset => p

/-- The panel takes byte `b` under mode select `dc`; an opaque command byte's meaning is the panel's own (R108). -/
def Panel.receive (dc : DcMode) (b : Byte) (p : Panel) : Panel :=
  match decodePanelByte dc b with
  | .ok i => p.perform i
  | .error _ => p.lose

/-- The panel behind the pins: it takes a byte only with chip-select Asserted (R55, R140), and what asserting its
hardware reset does to it is not in the reading (assumption 8). -/
def Panel.observe (p : Panel) : Event → Panel
  | .tx .asserted dc b => p.receive dc b
  | .tx .deasserted _ _ => p
  | .rst .asserted => p.lose
  | .rst .released => p
  | .pinCfg => p
  | .delay _ => p
  | .clk _ => p
  | .cs _ => p
  | .dc _ => p
  | .dmaRd _ _ => p
  | .hostWr _ _ => p
  | .status _ => p
  | .fault _ _ => p

end Sys2Proof.Machine
end

