-- ==== Sys2Proof/Machine/Ops.lean ====
section
/-! DEFINITION. The named operations every agent step is made of (R17, R232): the trace, the bus queue, the pins, host
memory, and raising a fault (R250), which is all the exception entry the block has (R255). There is no return from one
(R256): a fault transfers no control, and only reset clears it. -/

namespace Sys2Proof.Machine

/-- `emit e`: append `e` to the trace (R17, R55). The reference panel observes it. -/
def State.emit (e : Event) (s : State) : State :=
  { s with trace := s.trace ++ [e], panel := s.panel.observe e }

/-- `push bs`: append `bs` to the tail of the bus transmit queue (R17, R47). -/
def State.push (bs : List Byte) (s : State) : State := { s with txq := s.txq ++ bs }

/-! ## Faults -/

/-- The number of a fault code, 1 to 7 (R251). -/
def FaultCode.number : FaultCode → Nat
  | .sendPageInflight => 1
  | .fbWriteInflight => 2
  | .argRange => 3
  | .addrRange => 4
  | .notInit => 5
  | .busy => 6
  | .illegalReq => 7

/-- The bit of `E.fault` that records a code: bit `n - 1` for code `n` (R35, R251). -/
def FaultCode.bit (f : FaultCode) : BitVec 7 := 1#7 <<< (f.number - 1)

/-- `raise F(info)`: set the sticky bit and emit the event; transfer no control and change no other field (R250). -/
def State.raise (f : FaultCode) (info : FaultInfo) (s : State) : State :=
  State.emit (.fault f info) { s with fault := s.fault ||| f.bit }

/-- A dropped request: the fault is raised, with its event, and the engine returns to `REST`; nothing else changes (R251;
assumption 19). -/
def State.dropRequest (f : FaultCode) (info : FaultInfo) (s : State) : State :=
  { s.raise f info with seq := .rest }

/-! ## Pins (R232): every write is recorded, even one that leaves the value unchanged (R54) -/

/-- Write chip-select. -/
def State.writeCs (level : CsLevel) (s : State) : State := State.emit (.cs level) { s with cs := level }

/-- Write the mode select. -/
def State.writeDc (mode : DcMode) (s : State) : State := State.emit (.dc mode) { s with dc := mode }

/-- Write the panel reset line. -/
def State.writeRst (level : RstLevel) (s : State) : State := State.emit (.rst level) { s with rst := level }

/-- The setting of `P.clk` a rate gives. -/
def Rate.toClk : Rate → Clk
  | .cmd => .cmd
  | .normal => .normal

/-- `setClockSpeed(rate)` (R232). -/
def State.writeClk (rate : Rate) (s : State) : State := State.emit (.clk rate) { s with clk := rate.toClk }

/-- `P.cs`, `P.dc` sampled as byte `b` leaves on the wire (R220). -/
def State.transmit (b : Byte) (s : State) : State := State.emit (.tx s.cs s.dc b) s

/-! ## Host memory -/

/-- `MemRead(a, 1)`; `Mem` has the addresses `0` to `2^ADDR_W - 1` and no other (R70). -/
def State.memRead (a : Nat) (s : State) : Option Byte :=
  if s.cfg.fitsAddr a then some (Memory.read s.mem a) else none

/-- `MemWrite(a, 1, v)` (R17, R225). -/
def State.memWrite (a : Nat) (v : Byte) (s : State) : State := { s with mem := Memory.write s.mem a v }

end Sys2Proof.Machine
end

