-- ==== Sys2Proof/Machine/Operands.lean ====
section
/-! DEFINITION. Operands and derived quantities: the request's page, sub-page and base (R36, R110), the column and
burst address (R74, R131), the addressing command encoder (R132), and the range checks of R170. -/

namespace Sys2Proof.Machine

/-- `kNumSubpages = kPageSize / kSubpageSize` (R9). -/
def numSubpages (c : Config) : Nat := c.kPageSize / c.kSubpageSize

/-- `kFrameSize = kNumPages * kPageSize` (R10). -/
def frameSize (c : Config) : Nat := c.kNumPages * c.kPageSize

/-- The address of column `col` of page `p` in the framebuffer at `fb` (R72). -/
def frameAddr (c : Config) (fb p col : Nat) : Nat := fb + p * c.kPageSize + col

/-- `E.req_page = E.req_word[11:8]` (R36). -/
def State.reqPage (s : State) : Nat := (ReqWord.pg s.reqWord).toNat

/-- `E.req_sub = E.req_word[7:0]` (R36). -/
def State.reqSub (s : State) : Nat := (ReqWord.sp s.reqWord).toNat

/-- The panel column sub-page `sub` starts at, `col = s * kSubpageSize` (R131; 90_conflicts.md C1). No offset is added
(R12, R138). -/
def columnOf (c : Config) (sub : Nat) : Nat := sub * c.kSubpageSize

/-- The host address sub-page `sub` of the page at `base` starts at, `base + s*kSubpageSize` (R74, R177). -/
def burstAddr (c : Config) (base sub : Nat) : Nat := base + sub * c.kSubpageSize

/-- `byte(v)` = `v[7:0]` (R16). -/
def byteOf (v : Nat) : Byte := BitVec.ofNat 8 v

/-- `ENCODE_ADDR(p, col)`: `SET_COL_HI`, `SET_COL_LO`, `SET_PAGE` (R132). -/
def encodeAddr (p col : Nat) : CmdBuf :=
  { b0 := byteOf (0x10 ||| (col >>> 4)), b1 := byteOf (col &&& 0x0F), b2 := byteOf (0xB0 ||| p) }

/-- The three bytes in the order they leave (R77, R106). -/
def CmdBuf.bytes (c : CmdBuf) : List Byte := [c.b0, c.b1, c.b2]

/-- The column an addressing command carries, `(b0[3:0] << 4) | b1[3:0]` (R109). -/
def CmdBuf.column (c : CmdBuf) : Nat := ((Byte.low c.b0).toNat <<< 4) ||| (Byte.low c.b1).toNat

/-- The page an addressing command carries, `b2[3:0]` (R109). -/
def CmdBuf.page (c : CmdBuf) : Nat := (Byte.low c.b2).toNat

/-- `n` zero bytes, `zeros(n)` (R16). -/
def zeros (n : Nat) : List Byte := List.replicate n 0x00#8

/-- `p < kNumPages` and `s < kNumSubpages`: the arguments `F_ARG_RANGE` lets pass (R170). -/
def argsInRange (c : Config) (p sub : Nat) : Bool := decide (p < c.kNumPages) && decide (sub < numSubpages c)

/-- The page at `base` runs past the address space: `base + kPageSize - 1 > 2^ADDR_W - 1` (R75, R170). -/
def pageOverruns (c : Config) (base : Nat) : Bool := decide (base + c.kPageSize - 1 > 2 ^ c.addrW - 1)

/-- `a` lies in the page region `[base, base + kPageSize)` (R189, R226). -/
def inPageRegion (c : Config) (base a : Nat) : Bool := decide (base ≤ a) && decide (a < base + c.kPageSize)

end Sys2Proof.Machine
end

