-- ==== Sys2Proof/Machine/Flags.lean ====
section
/-! DEFINITION. The views of status, and the conditions the agents wait on: `STATUS` (R46), `DMA_STAT` (R45), the drain
condition (R47), and when the engine's step may fire (R17, R229). -/

namespace Sys2Proof.Machine

/-- The encoding of `E.phase` (R30). -/
def Phase.code : Phase → BitVec 2
  | .idle => 0b00#2
  | .commandPhase => 0b01#2
  | .dataPhaseAsync => 0b10#2

/-- A flag as one bit. -/
def flagBit (b : Bool) : BitVec 1 := if b then 1#1 else 0#1

/-- `STATUS[15:0]`, most significant field first (R46). -/
def State.status (s : State) : BitVec 16 :=
  0#1 ++ s.fault ++ 0#2 ++ flagBit s.dmaDone ++ flagBit (s.seq == .rest) ++ flagBit s.initialised ++
    flagBit s.inflight ++ s.phase.code

/-- `DMA_STAT`: bit 0 = `D.done`, bit 1 = `D.active` (R45). -/
def State.dmaStat (s : State) : BitVec 2 := flagBit s.dmaActive ++ flagBit s.dmaDone

/-- `B.count = length(B.txq)` (R47). -/
def State.busCount (s : State) : Nat := s.txq.length

/-- The drain condition, `B.count = 0` (R47). -/
def State.drained (s : State) : Bool := s.busCount == 0

/-- The current engine step's `await`, if it has one, holds: `FL_DMA` waits for `D.done` (R182), and `FL_DRAIN` and the
synchronous sends wait for the queue to drain (R156, R175, R183, R194, R196, R198). -/
def State.awaitHolds (s : State) : Bool :=
  match s.seq with
  | .flDma => s.dmaDone
  | .flDrain | .spCmdWait | .clCmdWait | .clDataWait | .clOnWait | .inTblWait => s.drained
  | .rest | .accept | .spClk | .spCs | .spCmd | .spDc | .spDma | .spFlag | .flCs | .flFlag | .flRst => true
  | .clCs | .clCmd | .clData | .clOn | .clEnd => true
  | .inPins | .inRstA | .inRstR | .inClkC | .inTbl | .inClkN | .inDone => true

/-- The DMA has a byte to move: `D.active = true and D.remaining > 0` (R222). -/
def State.dmaBusy (s : State) : Bool := s.dmaActive && decide (0 < s.dmaRemaining)

/-- The host write hazard: `E.inflight = true and E.xfer_base <= a < E.xfer_base + kPageSize` (R226). -/
def State.writeHazard (a : Nat) (s : State) : Bool := s.inflight && inPageRegion s.cfg s.xferBase a

end Sys2Proof.Machine
end

