-- ==== Sys2Proof/Machine/AdjustOffset.lean ====
section
/-! DEFINITION. `ADJUST_OFFSET`, the documented no-op (spec 42_frame_transfer.md section 5; R12, R138). -/

namespace Sys2Proof.Machine

/-- `ADJUST_OFFSET` at `ACCEPT`: `E.seq <- REST`, and nothing else, in every phase (R201). -/
def execAdjustOffset (s : State) : Result := .next { s with seq := .rest }

end Sys2Proof.Machine
end

