-- ==== Sys2Proof/Machine/Clear.lean ====
section
/-! DEFINITION. `CLEAR`: its accept rule and the steps `INIT` shares with it (spec 42_frame_transfer.md section 4). -/

namespace Sys2Proof.Machine

/-- `CLEAR` at `ACCEPT` (R190, R191). -/
def execClear (s : State) : Result :=
  if !s.initialised then .next (s.dropRequest .notInit .none)
  else if s.inflight then .next (s.dropRequest .busy .none)
  else .next { s with phase := .commandPhase, clearPage := 0, ret := .host, seq := .clCs }

/-- `CL_CS` (R192). -/
def stepClCs (s : State) : State := { s.writeCs .asserted with seq := .clCmd }

/-- `CL_CMD`, which addresses page `E.clear_page` at column 0 (R135, R193). -/
def stepClCmd (s : State) : State :=
  let buf := encodeAddr s.clearPage 0
  { State.push buf.bytes (State.writeDc .cmd { s with cmdbuf := buf }) with seq := .clCmdWait }

/-- `CL_CMDWAIT` once drained (R194). -/
def stepClCmdWait (s : State) : State := { s with seq := .clData }

/-- `CL_DATA`: one all-zero page, generated and not fetched (R191, R195). -/
def stepClData (s : State) : State :=
  { State.push (zeros s.cfg.kPageSize) (s.writeDc .data) with seq := .clDataWait }

/-- `CL_DATAWAIT` once drained (R196). -/
def stepClDataWait (s : State) : State :=
  { s with
    clearPage := s.clearPage + 1, seq := if s.clearPage + 1 < s.cfg.kNumPages then .clCmd else .clOn }

/-- `CL_ON`: the display-on command (R136, R197). -/
def stepClOn (s : State) : State :=
  { State.push [displayOnByte] (s.writeDc .cmd) with seq := .clOnWait }

/-- `CL_ONWAIT` once drained (R198). -/
def stepClOnWait (s : State) : State := { s with seq := .clEnd }

/-- Where `Clear` goes at its end (R199). -/
def ClearReturn.target : ClearReturn → Seq
  | .init => .inDone
  | .host => .rest

/-- `CL_END` (R199). -/
def stepClEnd (s : State) : State :=
  { s.writeCs .deasserted with phase := .idle, seq := s.ret.target }

end Sys2Proof.Machine
end

