-- ==== Sys2Proof/Machine/Flush.lean ====
section
/-! DEFINITION. `FLUSH`: its accept rule and steps (spec 42_frame_transfer.md section 3). -/

namespace Sys2Proof.Machine

/-- `FLUSH` at `ACCEPT`: a no-op with nothing in flight (R181, R187). -/
def execFlush (s : State) : Result :=
  if s.inflight then .next { s with seq := .flDma } else .next { s with seq := .rest }

/-- `FL_DMA` once `D.done` (R182). -/
def stepFlDma (s : State) : State := { s with seq := .flDrain }

/-- `FL_DRAIN` once drained (R183). -/
def stepFlDrain (s : State) : State := { s with seq := .flCs }

/-- `FL_CS` (R184). -/
def stepFlCs (s : State) : State := { s.writeCs .deasserted with seq := .flFlag }

/-- `FL_FLAG` (R185). -/
def stepFlFlag (s : State) : State := { s with inflight := false, seq := .flRst }

/-- `FL_RST` (R186). -/
def stepFlRst (s : State) : State :=
  { s with dmaDone := false, dmaActive := false, dmaRemaining := 0, phase := .idle, seq := .rest }

end Sys2Proof.Machine
end

