-- ==== Sys2Proof/Machine/InitSequencer.lean ====
section
/-! DEFINITION. `INIT`: its accept rule and the initialization sequencer's steps (spec 41_init_sequencer.md). A step's
`await` is `State.awaitHolds` (Flags.lean); each step here is the step's body. -/

namespace Sys2Proof.Machine

/-- `INIT` at `ACCEPT` (R150, R159): busy while a burst is in flight, and accepted otherwise, initialised or not. -/
def execInit (s : State) : Result :=
  if s.inflight then .next (s.dropRequest .busy .none)
  else .next { s with phase := .commandPhase, seq := .inPins }

/-- `IN_PINS` (R151). -/
def stepInPins (s : State) : State :=
  { State.emit .pinCfg { s with pinCfg := true, cs := .deasserted, dc := .cmd, rst := .released } with seq := .inRstA }

/-- `IN_RSTA` (R152). -/
def stepInRstA (s : State) : State :=
  { State.emit (.delay .pulse) (s.writeRst .asserted) with seq := .inRstR }

/-- `IN_RSTR` (R153). -/
def stepInRstR (s : State) : State :=
  { State.emit (.delay .settle) (s.writeRst .released) with seq := .inClkC }

/-- `IN_CLKC` (R154). -/
def stepInClkC (s : State) : State := { s.writeClk .cmd with seq := .inTbl }

/-- `IN_TBL` (R155): `InitTable` goes verbatim, in index order, in command mode (R107). -/
def stepInTbl (s : State) : State :=
  { State.push s.cfg.initTable ((s.writeCs .asserted).writeDc .cmd) with seq := .inTblWait }

/-- `IN_TBLWAIT` once drained (R156). -/
def stepInTblWait (s : State) : State := { s.writeCs .deasserted with seq := .inClkN }

/-- `IN_CLKN`, then entry to `Clear` without the request checks (R157). -/
def stepInClkN (s : State) : State :=
  { s.writeClk .normal with clearPage := 0, ret := .init, seq := .clCs }

/-- `IN_DONE` (R158). -/
def stepInDone (s : State) : State := { s with initialised := true, seq := .rest }

end Sys2Proof.Machine
end

