-- ==== Sys2Proof/Machine/PanelBytes.lean ====
section
/-! DEFINITION. The six panel bytes: what the block does with one is put it on the wire (R100, R220), where the reference
panel takes it (R140 to R144). The bus step removes the byte from the queue and calls these (Agents.lean). The wire
samples `P.cs` and `P.dc` as the byte leaves (R220), whatever the byte. -/

namespace Sys2Proof.Machine

/-- `SET_COL_HI` leaves on the wire (R101, R220; panel R142). -/
def execSetColHi (h : BitVec 4) (s : State) : Result := .next (s.transmit (setColHiByte h))

/-- `SET_COL_LO` leaves on the wire (R102, R220; panel R142). -/
def execSetColLo (l : BitVec 4) (s : State) : Result := .next (s.transmit (setColLoByte l))

/-- `SET_PAGE` leaves on the wire (R103, R220; panel R141). -/
def execSetPage (p : BitVec 4) (s : State) : Result := .next (s.transmit (setPageByte p))

/-- `DISPLAY_ON` leaves on the wire (R104, R136, R220; panel R144). -/
def execDisplayOn (s : State) : Result := .next (s.transmit displayOnByte)

/-- `DISPLAY_OFF` leaves on the wire (R104, R137, R220; panel R144). -/
def execDisplayOff (s : State) : Result := .next (s.transmit displayOffByte)

/-- `DATA` leaves on the wire, unchanged (R73, R105, R220; panel R143). -/
def execData (d : Byte) (s : State) : Result := .next (s.transmit d)

end Sys2Proof.Machine
end

