-- ==== Sys2Proof/Machine/SendPage.lean ====
section
/-! DEFINITION. `SEND_PAGE`: its accept rule and steps (spec 42_frame_transfer.md section 2). -/

namespace Sys2Proof.Machine

/-- The request is accepted: `E.phase <- CommandPhase; E.seq <- SP_CLK` (R170). -/
def acceptSendPage (s : State) : State := { s with phase := .commandPhase, seq := .spClk }

/-- `SEND_PAGE` at `ACCEPT`: the first failing check decides, and `F_SENDPAGE_INFLIGHT` lets the request proceed (R170,
R179, R180). -/
def execSendPage (pg : BitVec 4) (sp : BitVec 8) (base : Nat) (s : State) : Result :=
  if !s.initialised then .next (s.dropRequest .notInit .none)
  else if !argsInRange s.cfg pg.toNat sp.toNat then .next (s.dropRequest .argRange (.args pg.toNat sp.toNat))
  else if pageOverruns s.cfg base then .next (s.dropRequest .addrRange (.base base))
  else if s.inflight then .next (acceptSendPage (s.raise .sendPageInflight .none))
  else .next (acceptSendPage s)

/-- `SP_CLK` (R171). -/
def stepSpClk (s : State) : State := { s.writeClk .cmd with seq := .spCs }

/-- `SP_CS` (R172). -/
def stepSpCs (s : State) : State := { s.writeCs .asserted with seq := .spCmd }

/-- `SP_CMD` (R174): the command buffer is written in place and pushed whole (R134). -/
def stepSpCmd (s : State) : State :=
  let buf := encodeAddr s.reqPage (columnOf s.cfg s.reqSub)
  { State.push buf.bytes (State.writeDc .cmd { s with cmdbuf := buf }) with seq := .spCmdWait }

/-- `SP_CMDWAIT` once drained (R175). -/
def stepSpCmdWait (s : State) : State := { s with seq := .spDc }

/-- `SP_DC` (R176). -/
def stepSpDc (s : State) : State := { s.writeDc .data with seq := .spDma }

/-- `SP_DMA` (R177): the load replaces any descriptor already held. -/
def stepSpDma (s : State) : State :=
  { s with
    dmaSrc := burstAddr s.cfg s.reqBase s.reqSub, dmaRemaining := s.cfg.kSubpageSize, dmaActive := true,
    dmaDone := false, seq := .spFlag }

/-- `SP_FLAG` (R178); `P.cs` stays Asserted. -/
def stepSpFlag (s : State) : State :=
  { s with inflight := true, xferBase := s.reqBase, phase := .dataPhaseAsync, seq := .rest }

end Sys2Proof.Machine
end

