-- ==== Sys2Proof/Machine/Dispatch.lean ====
section
/-! DEFINITION. The meaning of each instruction: a host request's accept rule (R169), a panel byte's emission (R220). -/

namespace Sys2Proof.Machine

def exec (i : Instr) (s : State) : Host.Outcome State Fault Refusal :=
  match i with
  | .init => Sys2Proof.Machine.execInit s
  | .clear => Sys2Proof.Machine.execClear s
  | .sendPage pg sp base => Sys2Proof.Machine.execSendPage pg sp base s
  | .flush => Sys2Proof.Machine.execFlush s
  | .adjustOffset => Sys2Proof.Machine.execAdjustOffset s
  | .setColHi h => Sys2Proof.Machine.execSetColHi h s
  | .setColLo l => Sys2Proof.Machine.execSetColLo l s
  | .setPage p => Sys2Proof.Machine.execSetPage p s
  | .displayOn => Sys2Proof.Machine.execDisplayOn s
  | .displayOff => Sys2Proof.Machine.execDisplayOff s
  | .data d => Sys2Proof.Machine.execData d s

end Sys2Proof.Machine
end

