-- ==== Sys2Proof/Machine/Agents.lean ====
section
/-! DEFINITION. The four agents (spec 43_transport_agents.md; the engine's steps, 41 and 42), each with the condition
under which it may step (R229), and whose turn it is. -/

namespace Sys2Proof.Machine

/-! ## Engine -/

/-- `ACCEPT`: decode the latched word and perform the request's accept rule in the same step; an ILLEGAL word is dropped
with `F_ILLEGAL_REQ` (R113, R169). -/
def stepAccept (s : State) : Result :=
  match decodeRequest s.reqWord s.reqBase with
  | .ok i => exec i s
  | .error _ => .next (s.dropRequest .illegalReq (.word s.reqWord))

/-- The body of the engine step `E.seq` names (R18). At `REST` no operation runs. -/
def engineStep (s : State) : Result :=
  match s.seq with
  | .rest => .next s
  | .accept => stepAccept s
  | .spClk => .next (stepSpClk s)
  | .spCs => .next (stepSpCs s)
  | .spCmd => .next (stepSpCmd s)
  | .spCmdWait => .next (stepSpCmdWait s)
  | .spDc => .next (stepSpDc s)
  | .spDma => .next (stepSpDma s)
  | .spFlag => .next (stepSpFlag s)
  | .flDma => .next (stepFlDma s)
  | .flDrain => .next (stepFlDrain s)
  | .flCs => .next (stepFlCs s)
  | .flFlag => .next (stepFlFlag s)
  | .flRst => .next (stepFlRst s)
  | .clCs => .next (stepClCs s)
  | .clCmd => .next (stepClCmd s)
  | .clCmdWait => .next (stepClCmdWait s)
  | .clData => .next (stepClData s)
  | .clDataWait => .next (stepClDataWait s)
  | .clOn => .next (stepClOn s)
  | .clOnWait => .next (stepClOnWait s)
  | .clEnd => .next (stepClEnd s)
  | .inPins => .next (stepInPins s)
  | .inRstA => .next (stepInRstA s)
  | .inRstR => .next (stepInRstR s)
  | .inClkC => .next (stepInClkC s)
  | .inTbl => .next (stepInTbl s)
  | .inTblWait => .next (stepInTblWait s)
  | .inClkN => .next (stepInClkN s)
  | .inDone => .next (stepInDone s)

/-! ## Bus serializer -/

/-- The bus step: the head byte leaves the queue and goes on the wire (R220, R221). A byte of the classes of R101 to
R105 leaves as `exec` of its instruction; an opaque command byte leaves all the same (R107, R108). -/
def busStep (s : State) : Result :=
  match s.txq with
  | [] => .next s
  | b :: rest =>
    match decodePanelByte s.dc b with
    | .ok i => exec i { s with txq := rest }
    | .error _ => .next (State.transmit b { s with txq := rest })

/-! ## DMA -/

/-- One byte of the burst has been read: it is recorded and queued, and the descriptor advances (R222). -/
def dmaMove (b : Byte) (s : State) : State :=
  let t := State.push [b] (State.emit (.dmaRd s.dmaSrc b) s)
  { t with
    dmaSrc := s.dmaSrc + 1, dmaRemaining := s.dmaRemaining - 1,
    dmaDone := if s.dmaRemaining - 1 = 0 then true else s.dmaDone }

/-- The DMA step (R222); `D.src` past the address space names no byte of `Mem` (R70; assumption 9). -/
def dmaStep (s : State) : Result :=
  match s.memRead s.dmaSrc with
  | some b => .next (dmaMove b s)
  | none => .fault .dmaBeyondMemory

/-! ## Host -/

/-- The request step: latch the word, and the operand where there is one (R224). -/
def hostRequest (w : ReqWord) (base : Option Nat) (s : State) : State :=
  { s with reqWord := w, reqBase := base.getD s.reqBase, seq := .accept }

/-- The `WRITE` step: hazard check (R226), the write, and its event (R225). -/
def hostWrite (a : Nat) (v : Byte) (s : State) : State :=
  State.emit (.hostWr a v)
    (State.memWrite a v (if s.writeHazard a then s.raise .fbWriteInflight (.addr a) else s))

/-- The `READ_STATUS` step (R227). -/
def hostReadStatus (s : State) : State := State.emit (.status s.status) s

/-- One action of the host program. -/
def hostAct : Action → State → State
  | .request w base => hostRequest w base
  | .write a v => hostWrite a v
  | .readStatus => hostReadStatus

/-- The host step: the next action, in order (R224); one that cannot be encoded is refused (R116; assumption 9). -/
def hostStep (s : State) : Result :=
  match s.prog with
  | [] => .next s
  | a :: rest =>
    if a.encodable s.cfg then .next (hostAct a { s with prog := rest }) else .refused .unencodableAction

/-! ## The interleaving -/

/-- When an agent may step (R229). -/
def enabled (a : Agent) (s : State) : Bool :=
  match a with
  | .host => s.seq == .rest && !s.prog.isEmpty
  | .engine => s.seq != .rest && s.awaitHolds
  | .dma => s.dmaBusy
  | .bus => !s.drained

/-- The step of an enabled agent. -/
def agentStep (a : Agent) (s : State) : Result :=
  match a with
  | .host => hostStep s
  | .engine => engineStep s
  | .dma => dmaStep s
  | .bus => busStep s

/-- An agent's turn: its step where it may step; an agent that may not *holds*, which is not a fault (R17, R229). -/
def agentTurn (a : Agent) (s : State) : Result := if enabled a s then agentStep a s else .next s

/-- Whose turn it is: the head of the schedule, and past its end a free value (R229; assumption 2). -/
def nextAgent (s : State) : Agent :=
  match s.sched with
  | a :: _ => a
  | [] => Config.freeAgent s.turn

/-- The turn is taken from the schedule, or counted where the schedule names none. -/
def takeTurn (s : State) : State :=
  match s.sched with
  | _ :: rest => { s with sched := rest }
  | [] => { s with turn := s.turn + 1 }

/-- Mode select, queue and schedule such that the bus's next byte is `b` (assumption 3). -/
def placePanelByte (b : Byte) (s : State) : State :=
  { s with dc := tableDc b, txq := b :: s.txq, sched := .bus :: s.sched }

/-- Latches, sequencer and schedule such that the engine's next step accepts `w` with operand `base`, as after the
host's request step (R224; assumption 3). -/
def placeRequest (w : ReqWord) (base : Nat) (s : State) : State :=
  { s with reqWord := w, reqBase := base, seq := .accept, sched := .engine :: s.sched }

end Sys2Proof.Machine
end

