-- ==== Sys2Proof/Machine/Step.lean ====
section
/-! DEFINITION. One step of the machine: one agent's turn (R229). The block fetches no instructions (R86): a host request
comes from the request latches at `ACCEPT` (R169), a panel byte from the head of the bus queue (R220). -/

namespace Sys2Proof.Machine

/-- One step: the agent whose turn it is takes it (R17, R229). -/
def step (s : State) : Host.Outcome State Fault Refusal := agentTurn (nextAgent s) (takeTurn s)

/-- `s` with the instruction of bits `w` placed so that the very next step runs it (assumption 3): a panel byte at the
head of the bus queue, a request in the latches with `E.seq = ACCEPT`, and the turn given to the agent that runs it. -/
def State.withFetchWord (s : State) (nbits w : Nat) : State :=
  if isPanelWidth nbits then placePanelByte (BitVec.ofNat 8 w) s
  else placeRequest (BitVec.ofNat 16 w) (w >>> 16) s

end Sys2Proof.Machine
end

