-- ==== Sys2Proof/Machine/Assembler.lean ====
section
/-! DEFINITION. The assembler of host programs (spec 30_encoding.md R116 to R118): lines to actions, and text to lines.
It is host-side: no step of the machine reads it. -/

namespace Sys2Proof.Machine

/-! ## Lines to actions -/

/-- The word of a `SEND_PAGE` line, `0x3000 | page<<8 | subpage` (R116). -/
def asmSendPageWord (page subpage : Nat) : ReqWord := BitVec.ofNat 16 (0x3000 ||| (page <<< 8) ||| subpage)

/-- `SEND_PAGE <page>, <subpage>, <base>`, refused where a value cannot be encoded (R116). -/
def asmSendPage (c : Config) (page subpage base : Nat) : Option Action :=
  if page ≤ 15 ∧ subpage ≤ 255 ∧ c.fitsAddr base then some (.request (asmSendPageWord page subpage) (some base)) else none

/-- `SEND_SUBPAGE <p>, <s>, <base>` is `SEND_PAGE` and `FLUSH` (R117). -/
def asmSendSubpage (c : Config) (page subpage base : Nat) : Option (List Action) :=
  (asmSendPage c page subpage base).map fun a => [a, .request 0x4000#16 none]

/-- Join the expansions of a list of pseudo-instructions; one refusal refuses the whole. -/
def asmJoin : List (Option (List Action)) → Option (List Action)
  | [] => some []
  | none :: _ => none
  | some as :: rest => (asmJoin rest).map (as ++ ·)

/-- The `(page, subpage)` pairs of a frame, pages and sub-pages in increasing order (R118). -/
def framePairs (c : Config) : List (Nat × Nat) :=
  (List.range c.kNumPages).flatMap fun p => (List.range (numSubpages c)).map fun s => (p, s)

/-- `SEND_FRAME <fb>`: every sub-page of every page, each sent and flushed (R118; layout R72). -/
def asmSendFrame (c : Config) (fb : Nat) : Option (List Action) :=
  asmJoin ((framePairs c).map fun ps => asmSendSubpage c ps.1 ps.2 (frameAddr c fb ps.1 0))

/-- `REQ <word> [, <base>]`: the word exactly as written, with an operand just where `op = 0x3` (R115, R116). -/
def asmReq (c : Config) (word : Nat) (base : Option Nat) : Option Action :=
  if word ≤ 0xFFFF then
    if (Action.request (BitVec.ofNat 16 word) base).encodable c then some (.request (BitVec.ofNat 16 word) base) else none
  else none

/-- `WRITE <addr>, <byte>` (R116). -/
def asmWrite (c : Config) (addr byte : Nat) : Option Action :=
  if c.fitsAddr addr ∧ byte ≤ 255 then some (.write addr (byteOf byte)) else none

/-- The actions of a line, or a refusal where a value cannot be encoded (R116 to R118). -/
def assemble (c : Config) : AsmLine → Option (List Action)
  | .init => some [.request 0x1000#16 none]
  | .clear => some [.request 0x2000#16 none]
  | .sendPage page subpage base => (asmSendPage c page subpage base).map ([·])
  | .flush => some [.request 0x4000#16 none]
  | .adjustOffset => some [.request 0x5000#16 none]
  | .write addr byte => (asmWrite c addr byte).map ([·])
  | .readStatus => some [.readStatus]
  | .req word base => (asmReq c word base).map ([·])
  | .sendSubpage page subpage base => asmSendSubpage c page subpage base
  | .sendFrame fb => asmSendFrame c fb

/-! ## Text to lines: one action per line, decimal or `0x` numbers, comments from `;` to the end of the line (R116) -/

/-- The characters before a comment. -/
def dropComment : List Char → List Char
  | [] => []
  | c :: rest => if c = ';' then [] else c :: dropComment rest

/-- A pending word joins the tokens after it. -/
def closeToken (word : List Char) (rest : List (List Char)) : List (List Char) :=
  if word.isEmpty then rest else word :: rest

/-- The tokens of a line, `word` being read: blanks separate tokens, and a comma is a token. -/
def tokens (word : List Char) : List Char → List (List Char)
  | [] => closeToken word []
  | c :: rest =>
    if c = ' ' ∨ c = '\t' ∨ c = '\r' then closeToken word (tokens [] rest)
    else if c = ',' then closeToken word ([','] :: tokens [] rest)
    else tokens (word ++ [c]) rest

/-- The value of a digit in base 16, or none. -/
def digitValue (c : Char) : Option Nat :=
  if '0' ≤ c ∧ c ≤ '9' then some (c.toNat - 48)
  else if 'a' ≤ c ∧ c ≤ 'f' then some (c.toNat - 87)
  else if 'A' ≤ c ∧ c ≤ 'F' then some (c.toNat - 55)
  else none

/-- The digits of a number in base `base`, `value` being the part read. -/
def readDigits (base value : Nat) : List Char → Option Nat
  | [] => some value
  | c :: rest =>
    match digitValue c with
    | some d => if d < base then readDigits base (value * base + d) rest else none
    | none => none

/-- A number, decimal or `0x` hexadecimal. -/
def readNumber : List Char → Option Nat
  | [] => none
  | ['0', 'x'] => none
  | '0' :: 'x' :: digits => readDigits 16 0 digits
  | digits => readDigits 10 0 digits

/-- Operands separated by single commas. -/
def readOperands : List (List Char) → Option (List Nat)
  | [] => some []
  | [t] => (readNumber t).map ([·])
  | t :: comma :: rest =>
    if comma = [','] ∧ rest ≠ [] then
      match readNumber t, readOperands rest with
      | some n, some ns => some (n :: ns)
      | _, _ => none
    else none

/-- The line a mnemonic and its operands make. -/
def lineOf (mnemonic : List Char) (operands : List Nat) : Option AsmLine :=
  match operands with
  | [] =>
    if mnemonic = "INIT".toList then some .init
    else if mnemonic = "CLEAR".toList then some .clear
    else if mnemonic = "FLUSH".toList then some .flush
    else if mnemonic = "ADJUST_OFFSET".toList then some .adjustOffset
    else if mnemonic = "READ_STATUS".toList then some .readStatus
    else none
  | [x] =>
    if mnemonic = "REQ".toList then some (.req x none)
    else if mnemonic = "SEND_FRAME".toList then some (.sendFrame x)
    else none
  | [x, y] =>
    if mnemonic = "REQ".toList then some (.req x (some y))
    else if mnemonic = "WRITE".toList then some (.write x y)
    else none
  | [x, y, z] =>
    if mnemonic = "SEND_PAGE".toList then some (.sendPage x y z)
    else if mnemonic = "SEND_SUBPAGE".toList then some (.sendSubpage x y z)
    else none
  | _ => none

/-- The actions of one line of text; an empty line has none. -/
def assembleLine (c : Config) (line : List Char) : Option (List Action) :=
  match tokens [] (dropComment line) with
  | [] => some []
  | mnemonic :: rest =>
    match readOperands rest with
    | some ns =>
      match lineOf mnemonic ns with
      | some l => assemble c l
      | none => none
    | none => none

/-- The lines of a text, `line` being read. -/
def textLines (line : List Char) : List Char → List (List Char)
  | [] => [line]
  | c :: rest => if c = '\n' then line :: textLines [] rest else textLines (line ++ [c]) rest

/-- The host program of a text, or a refusal. -/
def assembleText (c : Config) (text : String) : Option (List Action) :=
  asmJoin ((textLines [] text.toList).map (assembleLine c))

end Sys2Proof.Machine
end

