-- ==== Sys2Proof/Safety.lean ====
section
/-! DEFINITION. The terms claims are made in: what a run shows (R55, R231), when it is over (R230), the invariants of
the machine (R56 and the field bounds of 10_state.md), and the traces the spec gives `INIT` and `CLEAR`. -/

namespace Sys2Proof.Machine

/-! ## What a run shows -/

/-- An event is a byte on the wire. -/
def Event.isTx : Event → Bool
  | .tx _ _ _ => true
  | _ => false

/-- `wire(T)`: the `EvTx` events of a trace (R55). -/
def wire (t : List Event) : List Event := t.filter Event.isTx

/-- The byte the panel receives from an event, tagged command or data (R55). -/
def Event.toPanel : Event → Option (DcMode × Byte)
  | .tx .asserted mode b => some (mode, b)
  | _ => none

/-- `panel(T)`: the bytes the panel receives (R55). A byte that leaves with chip-select Deasserted is not among them. -/
def panelStream (t : List Event) : List (DcMode × Byte) := t.filterMap Event.toPanel

/-- An event is a DMA read. -/
def Event.isDmaRd : Event → Bool
  | .dmaRd _ _ => true
  | _ => false

/-- An event is a raised fault. -/
def Event.isFault : Event → Bool
  | .fault _ _ => true
  | _ => false

/-- An event is a value the host read from `STATUS`. -/
def Event.isStatus : Event → Bool
  | .status _ => true
  | _ => false

/-! ## When a run is over -/

/-- A final state (R230). -/
abbrev State.Final (s : State) : Prop :=
  s.prog = [] ∧ s.seq = .rest ∧ s.inflight = false ∧ s.txq = [] ∧ s.dmaRemaining = 0 ∧ s.fault = 0

/-- A stuck state: no agent can step, and it is not final (R230). -/
abbrev State.Stuck (s : State) : Prop :=
  enabled .host s = false ∧ enabled .engine s = false ∧ enabled .dma s = false ∧ enabled .bus s = false ∧ ¬ s.Final

/-- The run of `s` under the schedule `agents`, one turn each (R229). -/
def runUnder (agents : List Agent) (s : State) : Result :=
  Sys2Proof.core.run agents.length { s with sched := agents }

/-- A round of turns in which the engine, the DMA and the bus each have one: a schedule made of such rounds is weakly
fair to them (R229, `BusLive`). -/
def fairRound (r : List Agent) : Prop := .engine ∈ r ∧ .dma ∈ r ∧ .bus ∈ r

/-! ## The machine's invariant -/

/-- The `SendPage` steps, `SP_CLK` to `SP_FLAG` (R31). -/
def Seq.sending : Seq → Bool
  | .spClk | .spCs | .spCmd | .spCmdWait | .spDc | .spDma | .spFlag => true
  | _ => false

/-- The `Flush` steps up to the one that clears the flag, `FL_DMA` to `FL_FLAG` (R31). -/
def Seq.flushing : Seq → Bool
  | .flDma | .flDrain | .flCs | .flFlag => true
  | _ => false

/-- The `Clear` steps that have a page to write, `CL_CS` to `CL_DATAWAIT` (R31). -/
def Seq.clearing : Seq → Bool
  | .clCs | .clCmd | .clCmdWait | .clData | .clDataWait => true
  | _ => false

/-- What every step keeps, faulted or not: the bounds of the fields and the DMA descriptor's meaning. -/
structure State.Sound (s : State) : Prop where
  /-- R6 to R8. -/
  config : s.cfg.wf
  /-- The canonical form of `Mem`. -/
  memory : Memory.wf s.mem
  /-- R70: `Mem` has no address above `2^ADDR_W - 1`. -/
  memoryBound : ∀ c ∈ s.mem, s.cfg.fitsAddr c.1
  /-- R116: the host program holds actions that can be encoded. -/
  actions : ∀ a ∈ s.prog, a.encodable s.cfg = true
  /-- R36: `E.req_base` is an address. -/
  requestBase : s.cfg.fitsAddr s.reqBase
  /-- R37: `E.xfer_base` is an address. -/
  transferBase : s.cfg.fitsAddr s.xferBase
  /-- R38: `E.clear_page` is at most `kNumPages`. -/
  clearPageBound : s.clearPage ≤ s.cfg.kNumPages
  /-- R193: a page being cleared is a page of the panel. -/
  clearPageInUse : s.seq.clearing = true → s.clearPage < s.cfg.kNumPages
  /-- R44: `D.remaining` is at most `kSubpageSize`. -/
  burstBound : s.dmaRemaining ≤ s.cfg.kSubpageSize
  /-- R44, R75: the bytes still to move lie in the address space, and `D.src` is at most `2^ADDR_W`. -/
  burstFits : s.dmaSrc + s.dmaRemaining ≤ 2 ^ s.cfg.addrW
  /-- R170: past `ACCEPT`, a `SEND_PAGE`'s arguments and page are in range. -/
  accepted : s.seq.sending = true →
    argsInRange s.cfg s.reqPage s.reqSub = true ∧ pageOverruns s.cfg s.reqBase = false
  /-- R177: a descriptor is loaded at `SP_FLAG`. -/
  loaded : s.seq = .spFlag → s.dmaActive = true
  /-- R181: `Flush` waits only with a burst in flight. -/
  flushed : s.seq.flushing = true → s.inflight = true
  /-- R185: the flag is clear at `FL_RST`. -/
  closed : s.seq = .flRst → s.inflight = false
  /-- R33: a burst in flight has a descriptor. -/
  outstanding : s.inflight = true → s.dmaActive = true
  /-- R44, R186: with no descriptor nothing remains and nothing is done. -/
  idleDma : s.dmaActive = false → s.dmaRemaining = 0 ∧ s.dmaDone = false
  /-- R222: a loaded burst is done exactly when its last byte has moved. -/
  completion : s.dmaActive = true → (s.dmaDone = true ↔ s.dmaRemaining = 0)

/-! ## The discipline of fault-free runs -/

/-- Nothing in flight, no descriptor, and an empty queue. -/
abbrev State.Quiet (s : State) : Prop := s.inflight = false ∧ s.dmaActive = false ∧ s.txq = []

/-- A burst is in flight on a bus held for it (R56.1, R56.3). -/
abbrev State.Bursting (s : State) : Prop :=
  s.inflight = true ∧ s.phase = .dataPhaseAsync ∧ s.cs = .asserted ∧ s.dc = .data

/-- A synchronous send in mode `dc` is draining: nothing else can queue a byte. -/
abbrev State.Sending (dc : DcMode) (s : State) : Prop :=
  s.inflight = false ∧ s.dmaActive = false ∧ s.phase = .commandPhase ∧ s.cs = .asserted ∧ s.dc = dc

/-- What holds at each sequencer position of a fault-free run: the three-state FSM (R203), one burst at a time (R56.4),
and no byte queued when a pin it is sampled with is written (R287, R288). From `SP_DC` to the end of the `FLUSH` that
closes the burst the mode select stays Data (R187). At `FL_FLAG` alone a burst is still marked in flight with chip-select
Deasserted: the step rules R184 and R185 say so, against R56.3 (assumption 10). -/
def State.Disciplined (s : State) : Prop :=
  match s.seq with
  | .rest | .accept => (s.Quiet ∧ s.phase = .idle) ∨ s.Bursting
  | .spClk | .spCs => s.Quiet ∧ s.phase = .commandPhase
  | .spCmd | .spDc => s.Quiet ∧ s.phase = .commandPhase ∧ s.cs = .asserted
  | .spCmdWait => s.Sending .cmd
  | .spDma => s.Quiet ∧ s.phase = .commandPhase ∧ s.cs = .asserted ∧ s.dc = .data
  | .spFlag => s.inflight = false ∧ s.phase = .commandPhase ∧ s.cs = .asserted ∧ s.dc = .data
  | .flDma => s.Bursting
  | .flDrain => s.Bursting ∧ s.dmaRemaining = 0
  | .flCs => s.Bursting ∧ s.dmaRemaining = 0 ∧ s.txq = []
  | .flFlag =>
    s.inflight = true ∧ s.phase = .dataPhaseAsync ∧ s.cs = .deasserted ∧ s.dc = .data ∧ s.dmaRemaining = 0 ∧ s.txq = []
  | .flRst =>
    s.inflight = false ∧ s.phase = .dataPhaseAsync ∧ s.cs = .deasserted ∧ s.dc = .data ∧ s.dmaRemaining = 0 ∧ s.txq = []
  | .clCs | .inPins | .inRstA | .inRstR | .inClkC | .inTbl | .inClkN => s.Quiet ∧ s.phase = .commandPhase
  | .clCmd | .clData | .clOn | .clEnd => s.Quiet ∧ s.phase = .commandPhase ∧ s.cs = .asserted
  | .clCmdWait | .clOnWait | .inTblWait => s.Sending .cmd
  | .clDataWait => s.Sending .data
  | .inDone => s.Quiet ∧ s.phase = .idle

/-- The invariant of runs: sound, and disciplined while no fault has been raised. -/
def State.Orderly (s : State) : Prop := s.Sound ∧ (s.fault = 0 → s.Disciplined)

/-! ## The traces the spec gives INIT and CLEAR -/

/-- The events of clearing page `p` (R193 to R196, R220). -/
def clearPageTrace (c : Config) (p : Nat) : List Event :=
  [.dc .cmd, .tx .asserted .cmd 0x10#8, .tx .asserted .cmd 0x00#8, .tx .asserted .cmd (byteOf (0xB0 ||| p)), .dc .data] ++
    List.replicate c.kPageSize (.tx .asserted .data 0x00#8)

/-- The events of a `Clear`, `CL_CS` to `CL_END` (R192 to R200; 95_test_vectors.md V21). -/
def clearTrace (c : Config) : List Event :=
  [.cs .asserted] ++ (List.range c.kNumPages).flatMap (clearPageTrace c) ++
    [.dc .cmd, .tx .asserted .cmd 0xAF#8, .cs .deasserted]

/-- The events of an `INIT` (R151 to R159; 95_test_vectors.md P1). -/
def initTrace (c : Config) : List Event :=
  [.pinCfg, .rst .asserted, .delay .pulse, .rst .released, .delay .settle, .clk .cmd, .cs .asserted, .dc .cmd] ++
    c.initTable.map (.tx .asserted .cmd) ++ [.cs .deasserted, .clk .normal] ++ clearTrace c

/-- The bytes of `Mem` from `a` on, `n` of them. -/
def memSlice (m : Memory) (a n : Nat) : List Byte := (List.range n).map fun i => Memory.read m (a + i)

/-- The host's `WRITE` actions of a list of (address, byte) pairs. -/
def writeActions (ws : List (Nat × Byte)) : List Action := ws.map fun w => .write w.1 w.2

end Sys2Proof.Machine
end

