-- ==== Sys2Proof/Certificates/Slice0/Obligations.lean ====
section
/-! DEFINITION. The statements for the provers, one definition each (OBLIGATIONS.json lists them). A statement about a
next state gives that state, or says what it shares with the old one. Where the reference panel's new value is not the
statement's subject it is left open (`∃ q : Panel`): no rule of the block reads the panel (R145). -/

open Sys2Proof Sys2Proof.Machine

/-! ## Encodings -/

/-- Words written out from R101 to R104 and R111 (95_test_vectors.md 2.1, 2.2) decode to the instructions they stand for,
and reserved words to none. -/
def Obligations.ListedWordsDecodeAsTheSpecSays : Prop :=
  ∀ base : Nat,
    decodeRequest 0x1000#16 base = .ok .init ∧ decodeRequest 0x2000#16 base = .ok .clear ∧
    decodeRequest 0x3701#16 base = .ok (.sendPage 7#4 1#8 base) ∧
    decodeRequest 0x3FFF#16 base = .ok (.sendPage 15#4 255#8 base) ∧
    decodeRequest 0x4000#16 base = .ok .flush ∧ decodeRequest 0x5000#16 base = .ok .adjustOffset ∧
    decodeRequest 0x1001#16 base = .error .reservedBits ∧ decodeRequest 0x4010#16 base = .error .reservedBits ∧
    decodeRequest 0x0000#16 base = .error .reservedOp ∧ decodeRequest 0x6000#16 base = .error .reservedOp ∧
    decodePanelByte .cmd 0x17#8 = .ok (.setColHi 7#4) ∧ decodePanelByte .cmd 0x0F#8 = .ok (.setColLo 15#4) ∧
    decodePanelByte .cmd 0xB7#8 = .ok (.setPage 7#4) ∧ decodePanelByte .cmd 0xAF#8 = .ok .displayOn ∧
    decodePanelByte .cmd 0xAE#8 = .ok .displayOff ∧ decodePanelByte .data 0xAF#8 = .ok (.data 0xAF#8)

/-- Every instruction, with every operand, decodes back from its encoded form (R101 to R105, R110, R111, R114). -/
def Obligations.DecodeOfEncodeIsTheInstruction : Prop :=
  ∀ i : Instr, decode (encode i) = .ok i

/-- Every encoded form that decodes at all is the encoding of the instruction it decodes to: each instruction has one
encoded form (R112 to R115). -/
def Obligations.EncodeOfDecodeIsTheForm : Prop :=
  ∀ (e : Encoded) (i : Instr), decode e = .ok i → encode i = e

/-- The decoders and opcode_table.json agree. A form that decodes matches the row of its instruction, and a request word
matches a row exactly when it decodes. -/
def Obligations.DecodersAgreeWithTheOpcodeTable : Prop :=
  (∀ (e : Encoded) (i : Instr), decode e = .ok i →
    ∃ r ∈ opcodeTable, r.mnemonic = i.mnemonic ∧ r.fits e = true) ∧
  (∀ (w : ReqWord) (base : Nat),
    (∃ r ∈ opcodeTable, r.fits (.request w none) = true) ↔ ∃ i, decodeRequest w base = .ok i) ∧
  (∀ (dc : DcMode) (b : Byte),
    (∃ r ∈ opcodeTable, r.fits (.panel dc b) = true) ↔ ∃ i, decodePanelByte dc b = .ok i)

/-- R112, R113: the ILLEGAL words are exactly those, by the value of the word, and at `ACCEPT` such a word raises
`F_ILLEGAL_REQ` with the word, drops the request, and changes no other state. The event of a dropped request (`EvFault`) is
the model's reading of R250 and R251 against R113 and R169 (assumption 19). -/
def Obligations.IllegalWordsAreTheReservedOnesAndAreDropped : Prop :=
  (∀ (w : ReqWord) (base : Nat), (∃ r, decodeRequest w base = .error r) ↔
    (w.toNat / 4096 = 0 ∨ 6 ≤ w.toNat / 4096 ∨
      ((w.toNat / 4096 = 1 ∨ w.toNat / 4096 = 2 ∨ w.toNat / 4096 = 4 ∨ w.toNat / 4096 = 5) ∧ w.toNat % 4096 ≠ 0))) ∧
  (∀ (s : State) (later : List Agent) (r : Reject),
    s.sched = .engine :: later → s.seq = .accept → decodeRequest s.reqWord s.reqBase = .error r →
    step s = .next
      { s with
        sched := later, fault := s.fault ||| 0b1000000#7,
        trace := s.trace ++ [.fault .illegalReq (.word s.reqWord)], seq := .rest })

/-- R109, R133: under the bounds of R6 and R7, each byte of the addressing command keeps its fixed high nibble, the column
and page are recovered exactly, so the encoding is injective, and with this hardware's values the bytes stay in their
ranges. -/
def Obligations.AddressingCommandIsInvertible : Prop :=
  (∀ p col : Nat, p < 16 → col < 256 →
    Byte.high (encodeAddr p col).b0 = 0x1#4 ∧ Byte.high (encodeAddr p col).b1 = 0x0#4 ∧
    Byte.high (encodeAddr p col).b2 = 0xB#4 ∧
    (encodeAddr p col).column = col ∧ (encodeAddr p col).page = p) ∧
  (∀ p col p' col' : Nat, p < 16 → col < 256 → p' < 16 → col' < 256 →
    encodeAddr p col = encodeAddr p' col' → p = p' ∧ col = col') ∧
  (∀ p col : Nat, p < 8 → col < 128 →
    0x10 ≤ (encodeAddr p col).b0.toNat ∧ (encodeAddr p col).b0.toNat ≤ 0x17 ∧
    0xB0 ≤ (encodeAddr p col).b2.toNat ∧ (encodeAddr p col).b2.toNat ≤ 0xB7)

/-! ## What each instruction does -/

/-- R150: `INIT` at `ACCEPT`, initialised or not. The event of the dropped request (`EvFault`) is the model's reading of R250
and R251 against R150's "nothing is emitted" (assumption 19). -/
def Obligations.InitAtAccept : Prop :=
  ∀ s : State,
    (s.inflight = true →
      exec .init s = .next
        { s with fault := s.fault ||| 0b0100000#7, trace := s.trace ++ [.fault .busy .none], seq := .rest }) ∧
    (s.inflight = false → exec .init s = .next { s with phase := .commandPhase, seq := .inPins })

/-- R190: `CLEAR` at `ACCEPT`; the first failing check decides. -/
def Obligations.ClearAtAccept : Prop :=
  ∀ s : State,
    (s.initialised = false →
      exec .clear s = .next
        { s with fault := s.fault ||| 0b0010000#7, trace := s.trace ++ [.fault .notInit .none], seq := .rest }) ∧
    (s.initialised = true → s.inflight = true →
      exec .clear s = .next
        { s with fault := s.fault ||| 0b0100000#7, trace := s.trace ++ [.fault .busy .none], seq := .rest }) ∧
    (s.initialised = true → s.inflight = false →
      exec .clear s = .next { s with phase := .commandPhase, clearPage := 0, ret := .host, seq := .clCs })

/-- R170: `SEND_PAGE` at `ACCEPT`; the checks in their order, the first failing one decides, and a burst in flight is
flagged without stopping the request. The event of a dropped request (`EvFault`) is the model's reading of R250 and R251
against R170's "changes nothing but" (assumption 19). -/
def Obligations.SendPageAtAccept : Prop :=
  ∀ (s : State) (pg : BitVec 4) (sp : BitVec 8) (base : Nat),
    (s.initialised = false →
      exec (.sendPage pg sp base) s = .next
        { s with fault := s.fault ||| 0b0010000#7, trace := s.trace ++ [.fault .notInit .none], seq := .rest }) ∧
    (s.initialised = true → (s.cfg.kNumPages ≤ pg.toNat ∨ s.cfg.kPageSize / s.cfg.kSubpageSize ≤ sp.toNat) →
      exec (.sendPage pg sp base) s = .next
        { s with
          fault := s.fault ||| 0b0000100#7, trace := s.trace ++ [.fault .argRange (.args pg.toNat sp.toNat)],
          seq := .rest }) ∧
    (s.initialised = true → pg.toNat < s.cfg.kNumPages → sp.toNat < s.cfg.kPageSize / s.cfg.kSubpageSize →
      2 ^ s.cfg.addrW - 1 < base + s.cfg.kPageSize - 1 →
      exec (.sendPage pg sp base) s = .next
        { s with
          fault := s.fault ||| 0b0001000#7, trace := s.trace ++ [.fault .addrRange (.base base)], seq := .rest }) ∧
    (s.initialised = true → pg.toNat < s.cfg.kNumPages → sp.toNat < s.cfg.kPageSize / s.cfg.kSubpageSize →
      base + s.cfg.kPageSize - 1 ≤ 2 ^ s.cfg.addrW - 1 → s.inflight = true →
      exec (.sendPage pg sp base) s = .next
        { s with
          fault := s.fault ||| 0b0000001#7, trace := s.trace ++ [.fault .sendPageInflight .none],
          phase := .commandPhase, seq := .spClk }) ∧
    (s.initialised = true → pg.toNat < s.cfg.kNumPages → sp.toNat < s.cfg.kPageSize / s.cfg.kSubpageSize →
      base + s.cfg.kPageSize - 1 ≤ 2 ^ s.cfg.addrW - 1 → s.inflight = false →
      exec (.sendPage pg sp base) s = .next { s with phase := .commandPhase, seq := .spClk })

/-- R181: `FLUSH` at `ACCEPT`: a no-op with nothing in flight, and otherwise the wait for the DMA. -/
def Obligations.FlushAtAccept : Prop :=
  ∀ s : State,
    (s.inflight = false → exec .flush s = .next { s with seq := .rest }) ∧
    (s.inflight = true → exec .flush s = .next { s with seq := .flDma })

/-- R201: `ADJUST_OFFSET` takes no operand, is exactly the word `0x5000`, and does nothing but return to `REST`, in every
state; any other word of its `op` raises `F_ILLEGAL_REQ`. The event of that dropped request (`EvFault`) is the model's
reading of R250 and R251 against R169 (assumption 19). -/
def Obligations.AdjustOffsetOnlyReturns : Prop :=
  (∀ s : State, exec .adjustOffset s = .next { s with seq := .rest }) ∧
  encode .adjustOffset = .request 0x5000#16 none ∧
  (∀ (s : State) (later : List Agent), s.sched = .engine :: later → s.seq = .accept → s.reqWord = 0x5000#16 →
    step s = .next { s with sched := later, seq := .rest }) ∧
  (∀ (s : State) (later : List Agent), s.sched = .engine :: later → s.seq = .accept →
    s.reqWord.toNat / 4096 = 5 → s.reqWord ≠ 0x5000#16 →
    step s = .next
      { s with
        sched := later, fault := s.fault ||| 0b1000000#7,
        trace := s.trace ++ [.fault .illegalReq (.word s.reqWord)], seq := .rest })

/-- The five command bytes leave on the wire with the layouts of R101 to R104, each sampled with the pins as it leaves
(R220); nothing else of the block changes. -/
def Obligations.CommandBytesLeaveWithTheirLayouts : Prop :=
  ∀ (s : State) (f : BitVec 4),
    (∃ q : Panel, exec (.setColHi f) s = .next
      { s with trace := s.trace ++ [.tx s.cs s.dc (BitVec.ofNat 8 (0x10 + f.toNat))], panel := q }) ∧
    (∃ q : Panel, exec (.setColLo f) s = .next
      { s with trace := s.trace ++ [.tx s.cs s.dc (BitVec.ofNat 8 f.toNat)], panel := q }) ∧
    (∃ q : Panel, exec (.setPage f) s = .next
      { s with trace := s.trace ++ [.tx s.cs s.dc (BitVec.ofNat 8 (0xB0 + f.toNat))], panel := q }) ∧
    (∃ q : Panel, exec .displayOn s = .next { s with trace := s.trace ++ [.tx s.cs s.dc 0xAF#8], panel := q }) ∧
    (∃ q : Panel, exec .displayOff s = .next { s with trace := s.trace ++ [.tx s.cs s.dc 0xAE#8], panel := q })

/-- A data byte leaves on the wire unchanged (R73, R105), sampled with the pins as it leaves (R220). -/
def Obligations.DataBytesLeaveUnchanged : Prop :=
  ∀ (s : State) (d : Byte),
    ∃ q : Panel, exec (.data d) s = .next { s with trace := s.trace ++ [.tx s.cs s.dc d], panel := q }

/-- The panel reading of the command bytes (R141, R142, R144: general knowledge, assumption 7): with chip-select Asserted
and command mode, each sets its register and leaves the rest of the panel. -/
def Obligations.CommandBytesSetThePanelRegisters : Prop :=
  ∀ (s t : State) (f : BitVec 4), s.cs = .asserted → s.dc = .cmd →
    (exec (.setColHi f) s = .next t →
      t.panel = { s.panel with column := BitVec.ofNat 8 (16 * f.toNat + s.panel.column.toNat % 16) }) ∧
    (exec (.setColLo f) s = .next t →
      t.panel = { s.panel with column := BitVec.ofNat 8 (16 * (s.panel.column.toNat / 16) + f.toNat) }) ∧
    (f.toNat < 8 → exec (.setPage f) s = .next t → t.panel = { s.panel with page := BitVec.ofNat 3 f.toNat }) ∧
    (exec .displayOn s = .next t → t.panel = { s.panel with on := true }) ∧
    (exec .displayOff s = .next t → t.panel = { s.panel with on := false })

/-- The panel reading of a data byte (R143: general knowledge, assumption 7): inside the RAM it is written at
`GD[PR][CR]`, every other cell is unchanged, `CR` counts on and `PR` does not change. -/
def Obligations.DataBytesFillThePanelRam : Prop :=
  ∀ (s t : State) (d : Byte), s.cs = .asserted → s.dc = .data → s.panel.column.toNat < 132 →
    exec (.data d) s = .next t →
    t.panel.page = s.panel.page ∧ t.panel.on = s.panel.on ∧
    t.panel.column.toNat = s.panel.column.toNat + 1 ∧
    t.panel.pixels s.panel.page.toNat s.panel.column.toNat = d ∧
    ∀ page column : Nat, column < 132 → (page, column) ≠ (s.panel.page.toNat, s.panel.column.toNat) →
      t.panel.pixels page column = s.panel.pixels page column

/-- FRAME of the five requests at `ACCEPT`: every byte of memory, every pin, the DMA, the queue, the command buffer, the
flags, the latches and the inputs are as before; `E.fault` only gains bits; `E.clear_page` and `E.ret` change only for
`CLEAR`. (`E.seq`, `E.phase` and the trace may change.) -/
def Obligations.RequestsFrame : Prop :=
  ∀ (i : Instr) (s t : State),
    (i = .init ∨ i = .clear ∨ (∃ pg sp base, i = .sendPage pg sp base) ∨ i = .flush ∨ i = .adjustOffset) →
    exec i s = .next t →
    (∀ a : Nat, t.memRead a = s.memRead a) ∧ t.mem = s.mem ∧
    t.cs = s.cs ∧ t.dc = s.dc ∧ t.rst = s.rst ∧ t.clk = s.clk ∧ t.pinCfg = s.pinCfg ∧
    t.dmaSrc = s.dmaSrc ∧ t.dmaRemaining = s.dmaRemaining ∧ t.dmaActive = s.dmaActive ∧ t.dmaDone = s.dmaDone ∧
    t.txq = s.txq ∧ t.cmdbuf = s.cmdbuf ∧ t.inflight = s.inflight ∧ t.initialised = s.initialised ∧
    t.reqWord = s.reqWord ∧ t.reqBase = s.reqBase ∧ t.xferBase = s.xferBase ∧
    t.cfg = s.cfg ∧ t.prog = s.prog ∧ t.sched = s.sched ∧ t.turn = s.turn ∧ t.panel = s.panel ∧
    s.fault &&& t.fault = s.fault ∧ (i ≠ .clear → t.clearPage = s.clearPage ∧ t.ret = s.ret)

/-- FRAME of the six panel bytes: they change nothing but the trace, which gains one event, and the reference panel. -/
def Obligations.PanelBytesFrame : Prop :=
  ∀ (i : Instr) (s t : State),
    ((∃ h, i = .setColHi h) ∨ (∃ l, i = .setColLo l) ∨ (∃ p, i = .setPage p) ∨ i = .displayOn ∨ i = .displayOff ∨
      ∃ d, i = .data d) →
    exec i s = .next t →
    (∀ a : Nat, t.memRead a = s.memRead a) ∧ (∃ b : Byte, t.trace = s.trace ++ [.tx s.cs s.dc b]) ∧
    t = { s with trace := t.trace, panel := t.panel }

/-! ## Agent steps -/

/-- At `ACCEPT` the engine's step is `exec` of the decoded request (R169), the turn being taken from the schedule. -/
def Obligations.StepRunsTheLatchedRequest : Prop :=
  ∀ (s : State) (later : List Agent) (i : Instr),
    s.sched = .engine :: later → s.seq = .accept → decodeRequest s.reqWord s.reqBase = .ok i →
    step s = exec i { s with sched := later }

/-- The bus's step is `exec` of the queue's head byte, decoded under `P.dc`, the byte having left the queue (R220). -/
def Obligations.StepRunsTheQueuedPanelByte : Prop :=
  ∀ (s : State) (later : List Agent) (b : Byte) (queue : List Byte) (i : Instr),
    s.sched = .bus :: later → s.txq = b :: queue → decodePanelByte s.dc b = .ok i →
    step s = exec i { s with sched := later, txq := queue }

/-- R220: the bus puts the head byte on the wire, whatever byte it is, sampling `P.cs` and `P.dc` as it leaves, and waits
while the queue is empty. -/
def Obligations.BusEmitsTheHeadByte : Prop :=
  ∀ (s : State) (later : List Agent), s.sched = .bus :: later →
    (s.txq = [] → step s = .next { s with sched := later }) ∧
    (∀ (b : Byte) (queue : List Byte), s.txq = b :: queue →
      ∃ q : Panel, step s = .next
        { s with sched := later, txq := queue, trace := s.trace ++ [.tx s.cs s.dc b], panel := q })

/-- An instruction placed by `withFetchWord` is the one the very next step runs (assumption 3). -/
def Obligations.PlacedInstructionRunsNext : Prop :=
  ∀ (s : State) (nbits w : Nat) (i : Instr), decodeTableWord nbits w = some i →
    (8 < nbits → step (s.withFetchWord nbits w) = exec i
      { s with reqWord := BitVec.ofNat 16 w, reqBase := w >>> 16, seq := .accept }) ∧
    (nbits ≤ 8 → ∃ dc, step (s.withFetchWord nbits w) = exec i { s with dc := dc })

/-- R151 to R158: the initialization sequencer's steps. What the reset pulse does to the reference panel is left open
(assumption 8). -/
def Obligations.InitSequencerSteps : Prop :=
  ∀ (s : State) (later : List Agent), s.sched = .engine :: later →
    (s.seq = .inPins → step s = .next
      { s with
        sched := later, pinCfg := true, cs := .deasserted, dc := .cmd, rst := .released,
        trace := s.trace ++ [.pinCfg], seq := .inRstA }) ∧
    (s.seq = .inRstA → ∃ q : Panel, step s = .next
      { s with
        sched := later, rst := .asserted, trace := s.trace ++ [.rst .asserted, .delay .pulse], panel := q,
        seq := .inRstR }) ∧
    (s.seq = .inRstR → step s = .next
      { s with
        sched := later, rst := .released, trace := s.trace ++ [.rst .released, .delay .settle], seq := .inClkC }) ∧
    (s.seq = .inClkC → step s = .next
      { s with sched := later, clk := .cmd, trace := s.trace ++ [.clk .cmd], seq := .inTbl }) ∧
    (s.seq = .inTbl → step s = .next
      { s with
        sched := later, cs := .asserted, dc := .cmd, trace := s.trace ++ [.cs .asserted, .dc .cmd],
        txq := s.txq ++ s.cfg.initTable, seq := .inTblWait }) ∧
    (s.seq = .inTblWait → s.txq ≠ [] → step s = .next { s with sched := later }) ∧
    (s.seq = .inTblWait → s.txq = [] → step s = .next
      { s with sched := later, cs := .deasserted, trace := s.trace ++ [.cs .deasserted], seq := .inClkN }) ∧
    (s.seq = .inClkN → step s = .next
      { s with
        sched := later, clk := .normal, trace := s.trace ++ [.clk .normal], clearPage := 0, ret := .init,
        seq := .clCs }) ∧
    (s.seq = .inDone → step s = .next { s with sched := later, initialised := true, seq := .rest })

/-- R171, R172, R174 to R178: the `SendPage` steps, with the operands `p`, `s` and `base` of the latched request. -/
def Obligations.SendPageSteps : Prop :=
  ∀ (s : State) (later : List Agent), s.sched = .engine :: later →
    (s.seq = .spClk → step s = .next
      { s with sched := later, clk := .cmd, trace := s.trace ++ [.clk .cmd], seq := .spCs }) ∧
    (s.seq = .spCs → step s = .next
      { s with sched := later, cs := .asserted, trace := s.trace ++ [.cs .asserted], seq := .spCmd }) ∧
    (s.seq = .spCmd → ∀ p col : Nat, p = s.reqWord.toNat / 256 % 16 →
      col = s.reqWord.toNat % 256 * s.cfg.kSubpageSize →
      step s = .next
        { s with
          sched := later,
          cmdbuf := ⟨BitVec.ofNat 8 (0x10 ||| (col >>> 4)), BitVec.ofNat 8 (col &&& 0x0F), BitVec.ofNat 8 (0xB0 ||| p)⟩,
          dc := .cmd, trace := s.trace ++ [.dc .cmd],
          txq := s.txq ++
            [BitVec.ofNat 8 (0x10 ||| (col >>> 4)), BitVec.ofNat 8 (col &&& 0x0F), BitVec.ofNat 8 (0xB0 ||| p)],
          seq := .spCmdWait }) ∧
    (s.seq = .spCmdWait → s.txq ≠ [] → step s = .next { s with sched := later }) ∧
    (s.seq = .spCmdWait → s.txq = [] → step s = .next { s with sched := later, seq := .spDc }) ∧
    (s.seq = .spDc → step s = .next
      { s with sched := later, dc := .data, trace := s.trace ++ [.dc .data], seq := .spDma }) ∧
    (s.seq = .spDma → step s = .next
      { s with
        sched := later, dmaSrc := s.reqBase + s.reqWord.toNat % 256 * s.cfg.kSubpageSize,
        dmaRemaining := s.cfg.kSubpageSize, dmaActive := true, dmaDone := false, seq := .spFlag }) ∧
    (s.seq = .spFlag → step s = .next
      { s with sched := later, inflight := true, xferBase := s.reqBase, phase := .dataPhaseAsync, seq := .rest })

/-- R182 to R186: the `Flush` steps, in the source's order, with both waits. -/
def Obligations.FlushSteps : Prop :=
  ∀ (s : State) (later : List Agent), s.sched = .engine :: later →
    (s.seq = .flDma → s.dmaDone = false → step s = .next { s with sched := later }) ∧
    (s.seq = .flDma → s.dmaDone = true → step s = .next { s with sched := later, seq := .flDrain }) ∧
    (s.seq = .flDrain → s.txq ≠ [] → step s = .next { s with sched := later }) ∧
    (s.seq = .flDrain → s.txq = [] → step s = .next { s with sched := later, seq := .flCs }) ∧
    (s.seq = .flCs → step s = .next
      { s with sched := later, cs := .deasserted, trace := s.trace ++ [.cs .deasserted], seq := .flFlag }) ∧
    (s.seq = .flFlag → step s = .next { s with sched := later, inflight := false, seq := .flRst }) ∧
    (s.seq = .flRst → step s = .next
      { s with
        sched := later, dmaDone := false, dmaActive := false, dmaRemaining := 0, phase := .idle, seq := .rest })

/-- R192 to R199: the `Clear` steps. -/
def Obligations.ClearSteps : Prop :=
  ∀ (s : State) (later : List Agent), s.sched = .engine :: later →
    (s.seq = .clCs → step s = .next
      { s with sched := later, cs := .asserted, trace := s.trace ++ [.cs .asserted], seq := .clCmd }) ∧
    (s.seq = .clCmd → step s = .next
      { s with
        sched := later, cmdbuf := ⟨0x10#8, 0x00#8, BitVec.ofNat 8 (0xB0 ||| s.clearPage)⟩, dc := .cmd,
        trace := s.trace ++ [.dc .cmd],
        txq := s.txq ++ [0x10#8, 0x00#8, BitVec.ofNat 8 (0xB0 ||| s.clearPage)], seq := .clCmdWait }) ∧
    (s.seq = .clCmdWait ∨ s.seq = .clDataWait ∨ s.seq = .clOnWait → s.txq ≠ [] →
      step s = .next { s with sched := later }) ∧
    (s.seq = .clCmdWait → s.txq = [] → step s = .next { s with sched := later, seq := .clData }) ∧
    (s.seq = .clData → step s = .next
      { s with
        sched := later, dc := .data, trace := s.trace ++ [.dc .data],
        txq := s.txq ++ List.replicate s.cfg.kPageSize 0x00#8, seq := .clDataWait }) ∧
    (s.seq = .clDataWait → s.txq = [] → s.clearPage + 1 < s.cfg.kNumPages → step s = .next
      { s with sched := later, clearPage := s.clearPage + 1, seq := .clCmd }) ∧
    (s.seq = .clDataWait → s.txq = [] → s.cfg.kNumPages ≤ s.clearPage + 1 → step s = .next
      { s with sched := later, clearPage := s.clearPage + 1, seq := .clOn }) ∧
    (s.seq = .clOn → step s = .next
      { s with
        sched := later, dc := .cmd, trace := s.trace ++ [.dc .cmd], txq := s.txq ++ [0xAF#8], seq := .clOnWait }) ∧
    (s.seq = .clOnWait → s.txq = [] → step s = .next { s with sched := later, seq := .clEnd }) ∧
    (s.seq = .clEnd → s.ret = .init → step s = .next
      { s with
        sched := later, cs := .deasserted, trace := s.trace ++ [.cs .deasserted], phase := .idle, seq := .inDone }) ∧
    (s.seq = .clEnd → s.ret = .host → step s = .next
      { s with
        sched := later, cs := .deasserted, trace := s.trace ++ [.cs .deasserted], phase := .idle, seq := .rest })

/-- The DMA's step (R222): one byte of an address of `Mem` goes to the queue's tail; without a loaded burst it waits. A
`D.src` past the address space, which no sound state reaches, stops by name (assumption 9). -/
def Obligations.DmaMovesOneByte : Prop :=
  ∀ (s : State) (later : List Agent), s.sched = .dma :: later →
    (s.dmaActive = false ∨ s.dmaRemaining = 0 → step s = .next { s with sched := later }) ∧
    (s.dmaActive = true → 0 < s.dmaRemaining → s.dmaSrc < 2 ^ s.cfg.addrW → step s = .next
      { s with
        sched := later, trace := s.trace ++ [.dmaRd s.dmaSrc (Memory.read s.mem s.dmaSrc)],
        txq := s.txq ++ [Memory.read s.mem s.dmaSrc], dmaSrc := s.dmaSrc + 1, dmaRemaining := s.dmaRemaining - 1,
        dmaDone := if s.dmaRemaining = 1 then true else s.dmaDone }) ∧
    (s.dmaActive = true → 0 < s.dmaRemaining → 2 ^ s.cfg.addrW ≤ s.dmaSrc → step s = .fault .dmaBeyondMemory)

/-- R74: a burst loaded at `SP_DMA` reads exactly the `kSubpageSize` bytes from `base + s*kSubpageSize` on, in increasing
order, one byte per DMA step, and is then done (R222). -/
def Obligations.BurstReadsItsSubpageInOrder : Prop :=
  ∀ s : State, s.Sound → s.seq = .spDma →
    runUnder (.engine :: List.replicate s.cfg.kSubpageSize .dma) s = .next
      { s with
        sched := [], seq := .spFlag,
        trace := s.trace ++ (List.range s.cfg.kSubpageSize).map fun i =>
          .dmaRd (s.reqBase + s.reqSub * s.cfg.kSubpageSize + i)
            (Memory.read s.mem (s.reqBase + s.reqSub * s.cfg.kSubpageSize + i)),
        txq := s.txq ++ memSlice s.mem (s.reqBase + s.reqSub * s.cfg.kSubpageSize) s.cfg.kSubpageSize,
        dmaSrc := s.reqBase + s.reqSub * s.cfg.kSubpageSize + s.cfg.kSubpageSize,
        dmaRemaining := 0, dmaActive := true, dmaDone := true }

/-- R224: the host hands over its next action only at `E.seq = REST`; a request is latched, its `base` only where it has
one. (An action no assembler can encode is refused by name, R116, assumption 9.) -/
def Obligations.HostHandsOverARequest : Prop :=
  ∀ (s : State) (later : List Agent), s.sched = .host :: later →
    (s.seq ≠ .rest ∨ s.prog = [] → step s = .next { s with sched := later }) ∧
    (∀ (w : ReqWord) (base : Nat) (more : List Action), s.seq = .rest →
      s.prog = .request w (some base) :: more → w.toNat / 4096 = 3 → base < 2 ^ s.cfg.addrW →
      step s = .next { s with sched := later, prog := more, reqWord := w, reqBase := base, seq := .accept }) ∧
    (∀ (w : ReqWord) (more : List Action), s.seq = .rest →
      s.prog = .request w none :: more → w.toNat / 4096 ≠ 3 →
      step s = .next { s with sched := later, prog := more, reqWord := w, seq := .accept }) ∧
    (∀ (a : Action) (more : List Action), s.seq = .rest → s.prog = a :: more → a.encodable s.cfg = false →
      step s = .refused .unencodableAction)

/-- R225, R226: a host `WRITE` outside an in-flight page, or with nothing in flight, writes its one byte and raises
nothing; inside it, it raises `F_FB_WRITE_INFLIGHT` with the address and writes the byte all the same. Every other byte
reads as before. -/
def Obligations.HostWriteChangesOneByte : Prop :=
  ∀ (s : State) (later : List Agent) (a : Nat) (v : Byte) (more : List Action),
    s.Sound → s.sched = .host :: later → s.seq = .rest → s.prog = .write a v :: more →
    ∃ m : Memory, (∀ x : Nat, Memory.read m x = if x = a then v else Memory.read s.mem x) ∧
      ((s.inflight = true ∧ s.xferBase ≤ a ∧ a < s.xferBase + s.cfg.kPageSize) →
        step s = .next
          { s with
            sched := later, prog := more, mem := m, fault := s.fault ||| 0b0000010#7,
            trace := s.trace ++ [.fault .fbWriteInflight (.addr a), .hostWr a v] }) ∧
      (¬(s.inflight = true ∧ s.xferBase ≤ a ∧ a < s.xferBase + s.cfg.kPageSize) →
        step s = .next
          { s with sched := later, prog := more, mem := m, trace := s.trace ++ [.hostWr a v] })

/-- R227: a host `READ_STATUS` records the value of `STATUS` and changes no state of the block. -/
def Obligations.ReadStatusOnlyRecords : Prop :=
  ∀ (s : State) (later : List Agent) (more : List Action),
    s.sched = .host :: later → s.seq = .rest → s.prog = .readStatus :: more →
    step s = .next { s with sched := later, prog := more, trace := s.trace ++ [.status s.status] }

/-- R229: when each agent may step, and that an agent which may not, given the turn, changes nothing but the schedule. -/
def Obligations.AgentsHoldUnlessEnabled : Prop :=
  (∀ s : State,
    (enabled .host s = true ↔ s.seq = .rest ∧ s.prog ≠ []) ∧
    (enabled .engine s = true ↔ s.seq ≠ .rest ∧ s.awaitHolds = true) ∧
    (enabled .dma s = true ↔ s.dmaActive = true ∧ 0 < s.dmaRemaining) ∧
    (enabled .bus s = true ↔ s.txq.length > 0)) ∧
  (∀ (s : State) (a : Agent) (later : List Agent), s.sched = a :: later → enabled a { s with sched := later } = false →
    step s = .next { s with sched := later })

/-! ## Views and reset -/

/-- R45, R46: the fields of `STATUS` and `DMA_STAT`. -/
def Obligations.StatusViewsHaveTheirFields : Prop :=
  ∀ s : State,
    (s.phase = .idle → s.status.extractLsb' 0 2 = 0b00#2) ∧
    (s.phase = .commandPhase → s.status.extractLsb' 0 2 = 0b01#2) ∧
    (s.phase = .dataPhaseAsync → s.status.extractLsb' 0 2 = 0b10#2) ∧
    s.status.getLsbD 2 = s.inflight ∧ s.status.getLsbD 3 = s.initialised ∧
    (s.status.getLsbD 4 = true ↔ s.seq = .rest) ∧ s.status.getLsbD 5 = s.dmaDone ∧
    s.status.extractLsb' 6 2 = 0b00#2 ∧ s.status.extractLsb' 8 7 = s.fault ∧ s.status.getLsbD 15 = false ∧
    s.dmaStat.getLsbD 0 = s.dmaDone ∧ s.dmaStat.getLsbD 1 = s.dmaActive

/-- R280: the fields reset fixes, under every configuration, and that reset leaves the launch inputs as they are; with no
launch input it is the reset state. -/
def Obligations.ResetFixesItsFields : Prop :=
  ∀ (c : Config) (m : Memory) (prog : List Action) (sched : List Agent) (s : State), s = State.launch c m prog sched →
    s.seq = .rest ∧ s.phase = .idle ∧ s.inflight = false ∧ s.initialised = false ∧ s.fault = 0#7 ∧
    s.cs = .deasserted ∧ s.dc = .cmd ∧ s.rst = .released ∧ s.clk = .unset ∧ s.pinCfg = false ∧
    s.dmaActive = false ∧ s.dmaDone = false ∧ s.dmaRemaining = 0 ∧ s.txq = [] ∧ s.trace = [] ∧
    s.dmaStat = 0b00#2 ∧ s.status = 0x0010#16 ∧
    s.cfg = c ∧ s.mem = m ∧ s.prog = prog ∧ s.sched = sched ∧ State.launch c [] [] [] = State.resetWith c

/-- R282: what each request does in the reset state, under every configuration. The event of a dropped request (`EvFault`) is
the model's reading of R250 and R251 against R169 (assumption 19). -/
def Obligations.RequestsAtReset : Prop :=
  ∀ (c : Config) (r : State), r = State.resetWith c →
    r.seq = .rest ∧
    exec .init r = .next { r with phase := .commandPhase, seq := .inPins } ∧
    exec .flush r = .next r ∧ exec .adjustOffset r = .next r ∧
    exec .clear r = .next { r with fault := 0x10#7, trace := [.fault .notInit .none] } ∧
    (∀ pg sp base, exec (.sendPage pg sp base) r = .next { r with fault := 0x10#7, trace := [.fault .notInit .none] }) ∧
    (∀ (w : ReqWord) (e : Reject), decodeRequest w 0 = .error e →
      step { r with seq := .accept, reqWord := w, sched := [.engine] } =
        .next { r with reqWord := w, fault := 0x40#7, trace := [.fault .illegalReq (.word w)] })

/-! ## Invariants -/

/-- Every launch state under a well-formed configuration is orderly (R56, R280), whatever its canonical memory, its
encodable host program and its schedule. -/
def Obligations.LaunchStatesAreOrderly : Prop :=
  ∀ (c : Config) (m : Memory) (prog : List Action) (sched : List Agent),
    c.wf → Memory.wf m → (∀ x ∈ m, x.1 < 2 ^ c.addrW) → (∀ a ∈ prog, a.encodable c = true) →
    (State.launch c m prog sched).Orderly

/-- Every step keeps the bounds of every field and the meaning of the DMA descriptor, in faulted runs too (R36 to R38, R44,
R75). -/
def Obligations.StepKeepsSound : Prop :=
  ∀ s t : State, s.Sound → step s = .next t → t.Sound

/-- Every step keeps the discipline of fault-free runs: the three-state FSM, one burst at a time, chip-select and mode held
while bytes are queued (R56, R203, R287, R288). -/
def Obligations.StepKeepsOrderly : Prop :=
  ∀ s t : State, s.Orderly → step s = .next t → t.Orderly

/-- From a sound state the machine never stops: no fault of the model's and no refusal can arise (R161, R255). -/
def Obligations.SoundStatesAlwaysStep : Prop :=
  ∀ s : State, s.Sound → ∃ t, step s = .next t

/-- The invariants R56 lists, in every fault-free orderly state. 1, 2, 4 and 5 as written, and of 3 the mode select as
written and chip-select except at `FL_FLAG`, where the steps R184 and R185 break it (assumption 10); there no byte is left
to send. -/
def Obligations.FaultFreeStatesMeetTheListedInvariants : Prop :=
  ∀ s : State, s.Orderly → s.fault = 0#7 →
    (s.inflight = true → s.phase = .dataPhaseAsync) ∧
    (s.phase = .dataPhaseAsync → s.seq = .rest → s.inflight = true) ∧
    (s.inflight = true → s.dc = .data) ∧
    (s.inflight = true → s.seq ≠ .flFlag → s.cs = .asserted) ∧
    (s.seq = .flFlag → s.cs = .deasserted ∧ s.txq = [] ∧ s.dmaRemaining = 0) ∧
    (s.seq = .spDma → s.inflight = false ∧ s.dmaActive = false) ∧
    (s.seq = .rest → s.inflight = false → s.txq = [] ∧ s.dmaActive = false)

/-- The step `FL_CS` of every orderly fault-free `Flush` leaves a burst marked in flight, in data mode, with chip-select
already deasserted and no byte left to send: R184 and R185 break R56.3 there, until the engine's next step clears the flag
(assumption 10). -/
def Obligations.ChipSelectDropsBeforeTheFlag : Prop :=
  ∀ (s : State) (later : List Agent), s.Orderly → s.fault = 0#7 → s.seq = .flCs → s.sched = .engine :: later →
    ∃ t, step s = .next t ∧ t.Orderly ∧ t.fault = 0#7 ∧ t.inflight = true ∧ t.cs = .deasserted ∧ t.dc = .data ∧
      t.txq = [] ∧ t.dmaRemaining = 0 ∧
      ∀ more, later = .engine :: more →
        ∃ u, step t = .next u ∧ u.Orderly ∧ u.fault = 0#7 ∧ u.inflight = false ∧ u.cs = .deasserted ∧ u.dc = .data

/-- H3 and H4 (R287, R288): in a fault-free orderly state every queued byte will leave with chip-select Asserted, and while
a byte is queued no engine step that raises no fault changes chip-select or the mode select. -/
def Obligations.QueuedBytesKeepTheirPins : Prop :=
  ∀ s t : State, s.Orderly → s.fault = 0#7 → s.txq ≠ [] →
    s.cs = .asserted ∧
    (nextAgent s = .engine → step s = .next t → t.fault = 0#7 → t.cs = s.cs ∧ t.dc = s.dc)

/-- Only reset clears a fault bit (R35, R250, R256), `E.initialised` (R34) or `P.cfg` (R43): no step does. -/
def Obligations.StickyBitsStaySet : Prop :=
  ∀ s t : State, step s = .next t →
    s.fault &&& t.fault = s.fault ∧ (s.initialised = true → t.initialised = true) ∧
    (s.pinCfg = true → t.pinCfg = true)

/-- R55: the trace only grows, and nothing is removed from it. -/
def Obligations.TraceOnlyGrows : Prop :=
  ∀ s t : State, step s = .next t → ∃ es : List Event, t.trace = s.trace ++ es

/-- R33: the in-flight flag is set only by `SP_FLAG` and cleared only by `FL_FLAG`, by the engine. -/
def Obligations.InflightHasTwoWriters : Prop :=
  ∀ s t : State, step s = .next t → t.inflight ≠ s.inflight →
    nextAgent s = .engine ∧
      ((s.seq = .spFlag ∧ t.inflight = true) ∨ (s.seq = .flFlag ∧ t.inflight = false))

/-- R32, R134: the command buffer is written only by `SP_CMD` and `CL_CMD`, which write the encoded address and push the
three bytes in the same step. -/
def Obligations.CommandBufferHasTwoWriters : Prop :=
  ∀ s t : State, step s = .next t →
    (t.cmdbuf ≠ s.cmdbuf → nextAgent s = .engine ∧ (s.seq = .spCmd ∨ s.seq = .clCmd)) ∧
    (nextAgent s = .engine → s.seq = .spCmd → t.cmdbuf = encodeAddr s.reqPage (s.reqSub * s.cfg.kSubpageSize)) ∧
    (nextAgent s = .engine → s.seq = .clCmd → t.cmdbuf = encodeAddr s.clearPage 0) ∧
    (nextAgent s = .engine → s.seq = .spCmd ∨ s.seq = .clCmd →
      t.txq = s.txq ++ [t.cmdbuf.b0, t.cmdbuf.b1, t.cmdbuf.b2])

/-- R252: only `ACCEPT` and the host's `WRITE` raise a fault, and no step raises more than one; a step that raises
none leaves `E.fault` as it is. -/
def Obligations.OnlyAcceptAndWriteRaise : Prop :=
  ∀ s t : State, step s = .next t →
    ∃ es : List Event, t.trace = s.trace ++ es ∧ (es.filter Event.isFault).length ≤ 1 ∧
      (es.filter Event.isFault = [] → t.fault = s.fault) ∧
      (es.filter Event.isFault ≠ [] →
        (nextAgent s = .engine ∧ s.seq = .accept) ∨
          (nextAgent s = .host ∧ ∃ a v more, s.prog = .write a v :: more))

/-- R70: no step of the block writes host memory; only the host's `WRITE` does, and only its byte. -/
def Obligations.OnlyTheHostWritesMemory : Prop :=
  ∀ s t : State, Memory.wf s.mem → step s = .next t →
    (nextAgent s ≠ .host → t.mem = s.mem) ∧
    (∀ x : Nat, Memory.read t.mem x ≠ Memory.read s.mem x →
      nextAgent s = .host ∧ ∃ v more, s.prog = .write x v :: more)

/-- R223: only `SP_DMA` (load) and `FL_RST` (reset) write the DMA's registers, besides the DMA's own step. -/
def Obligations.DmaRegistersHaveThreeWriters : Prop :=
  ∀ s t : State, step s = .next t →
    (t.dmaSrc, t.dmaRemaining, t.dmaActive, t.dmaDone) ≠ (s.dmaSrc, s.dmaRemaining, s.dmaActive, s.dmaDone) →
    nextAgent s = .dma ∨ (nextAgent s = .engine ∧ (s.seq = .spDma ∨ s.seq = .flRst))

/-- R39 to R43: each pin is written only by the engine's steps the spec names. -/
def Obligations.PinsHaveTheirWriters : Prop :=
  ∀ s t : State, step s = .next t →
    (t.cs ≠ s.cs → nextAgent s = .engine ∧
      (s.seq = .spCs ∨ s.seq = .flCs ∨ s.seq = .clCs ∨ s.seq = .clEnd ∨ s.seq = .inPins ∨ s.seq = .inTbl ∨
        s.seq = .inTblWait)) ∧
    (t.dc ≠ s.dc → nextAgent s = .engine ∧
      (s.seq = .spCmd ∨ s.seq = .spDc ∨ s.seq = .clCmd ∨ s.seq = .clData ∨ s.seq = .clOn ∨ s.seq = .inPins ∨
        s.seq = .inTbl)) ∧
    (t.rst ≠ s.rst → nextAgent s = .engine ∧ (s.seq = .inPins ∨ s.seq = .inRstA ∨ s.seq = .inRstR)) ∧
    (t.clk ≠ s.clk → nextAgent s = .engine ∧ (s.seq = .spClk ∨ s.seq = .inClkC ∨ s.seq = .inClkN)) ∧
    (t.pinCfg ≠ s.pinCfg → nextAgent s = .engine ∧ s.seq = .inPins ∧ t.pinCfg = true)

/-- The request latches are written only by the host's request step (R36), `E.xfer_base` only by `SP_FLAG` (R37),
`E.clear_page` only by the entries to `Clear` and `CL_DATAWAIT`, and `E.ret` only by those entries (R38); the
configuration by nothing (R283). -/
def Obligations.LatchesHaveTheirWriters : Prop :=
  ∀ s t : State, step s = .next t →
    t.cfg = s.cfg ∧
    ((t.reqWord, t.reqBase) ≠ (s.reqWord, s.reqBase) →
      nextAgent s = .host ∧ ∃ w base more, s.prog = .request w base :: more) ∧
    (t.xferBase ≠ s.xferBase → nextAgent s = .engine ∧ s.seq = .spFlag ∧ t.xferBase = s.reqBase) ∧
    (t.clearPage ≠ s.clearPage → nextAgent s = .engine ∧
      ((s.seq = .accept ∧ t.clearPage = 0) ∨ (s.seq = .inClkN ∧ t.clearPage = 0) ∨
        (s.seq = .clDataWait ∧ t.clearPage = s.clearPage + 1))) ∧
    (t.ret ≠ s.ret → nextAgent s = .engine ∧
      ((s.seq = .accept ∧ t.ret = .host) ∨ (s.seq = .inClkN ∧ t.ret = .init)))

/-- R221: the bus alone removes bytes from the queue, one at a time from its head, and every other agent's step only
appends to the tail; the bus's step changes no state but the queue, the trace and the panel behind the wire. -/
def Obligations.QueueIsFirstInFirstOut : Prop :=
  ∀ s t : State, step s = .next t →
    (nextAgent s ≠ .bus → ∃ bs : List Byte, t.txq = s.txq ++ bs) ∧
    (nextAgent s = .bus → s.txq ≠ [] →
      ∃ b : Byte, s.txq = b :: t.txq ∧ t.trace = s.trace ++ [.tx s.cs s.dc b] ∧
        t = { takeTurn s with txq := t.txq, trace := t.trace, panel := t.panel })

/-- R145: no rule of the block reads the reference panel. Two states that differ in the panel alone step alike and to
states that differ in the panel alone. -/
def Obligations.PanelIsNeverRead : Prop :=
  ∀ (s : State) (p : Panel),
    (∀ t, step s = .next t → ∃ q : Panel, step { s with panel := p } = .next { t with panel := q }) ∧
    (∀ r, step s = .fault r → step { s with panel := p } = .fault r) ∧
    (∀ r, step s = .refused r → step { s with panel := p } = .refused r)

/-- R262, R293: the sticky faults harden nothing. With any other value of `E.fault` a step does the same, and its events are
the same but for the value a `STATUS` read records. -/
def Obligations.FaultBitsChangeNoBehaviour : Prop :=
  ∀ (s : State) (f : BitVec 7),
    (∀ t, step s = .next t →
      ∃ (g : BitVec 7) (es es' : List Event), t.trace = s.trace ++ es ∧
        step { s with fault := f } = .next { t with fault := g, trace := s.trace ++ es' } ∧
        es'.filter (fun e => !e.isStatus) = es.filter (fun e => !e.isStatus) ∧ es'.length = es.length) ∧
    (∀ r, step s = .fault r → step { s with fault := f } = .fault r) ∧
    (∀ r, step s = .refused r → step { s with fault := f } = .refused r)

/-- R230: in a final state no agent may step, so whoever has the turn nothing happens. -/
def Obligations.FinalStatesRest : Prop :=
  ∀ s : State, s.Final → (∀ a : Agent, enabled a s = false) ∧ step s = .next (takeTurn s)

/-! ## Whole operations, in every interleaving -/

/-- R160 (and the trace of R151 to R159, P1): an `INIT` taken with nothing in flight ends, in every interleaving of the
agents, with exactly its trace and in exactly its end state. -/
def Obligations.InitIsTheSameInEveryInterleaving : Prop :=
  ∀ (s t : State) (agents : List Agent),
    s.cfg.wf → s.Quiet → s.prog = [] → s.seq = .accept → s.reqWord = 0x1000#16 →
    runUnder agents s = .next t → t.seq = .rest →
    t.trace = s.trace ++ initTrace s.cfg ∧
    t.phase = .idle ∧ t.inflight = false ∧ t.initialised = true ∧ t.cs = .deasserted ∧ t.dc = .cmd ∧
    t.rst = .released ∧ t.clk = .normal ∧ t.txq = [] ∧
    t.cmdbuf = ⟨0x10#8, 0x00#8, byteOf (0xB0 ||| (s.cfg.kNumPages - 1))⟩ ∧
    t.fault = s.fault ∧ t.mem = s.mem

/-- R200: a `CLEAR` of an initialised block with nothing in flight adds to the panel stream, in every interleaving, exactly
`kNumPages` addressed all-zero pages and one display-on. -/
def Obligations.ClearIsTheSameInEveryInterleaving : Prop :=
  ∀ (s t : State) (agents : List Agent),
    s.cfg.wf → s.Quiet → s.prog = [] → s.initialised = true → s.seq = .accept → s.reqWord = 0x2000#16 →
    runUnder agents s = .next t → t.seq = .rest →
    panelStream t.trace = panelStream s.trace ++
      (List.range s.cfg.kNumPages).flatMap (fun p =>
        [(DcMode.cmd, 0x10#8), (DcMode.cmd, 0x00#8), (DcMode.cmd, byteOf (0xB0 ||| p))] ++
          List.replicate s.cfg.kPageSize (DcMode.data, 0x00#8)) ++
      [(DcMode.cmd, 0xAF#8)] ∧
    t.trace = s.trace ++ clearTrace s.cfg ∧ t.fault = s.fault ∧ t.mem = s.mem ∧ t.clk = s.clk

/-- The double-buffered transfer (R83, R189, R228; 95_test_vectors.md S3, S5, S8, P2, P3). `SEND_PAGE`, then any host writes
outside the page, then `FLUSH`: in every interleaving the panel receives exactly the addressing command and the
sub-page's bytes as they stood, the DMA reads exactly those, chip-select is deasserted exactly once, and no fault is
raised. -/
def Obligations.DoubleBufferedBurstIsExact : Prop :=
  ∀ (s t : State) (pg : BitVec 4) (sp : BitVec 8) (base : Nat) (ws : List (Nat × Byte)) (agents : List Agent)
    (start k : Nat),
    s.Sound → s.Quiet → s.seq = .rest → s.initialised = true →
    pg.toNat < s.cfg.kNumPages → sp.toNat < s.cfg.kPageSize / s.cfg.kSubpageSize →
    base + s.cfg.kPageSize ≤ 2 ^ s.cfg.addrW →
    (∀ w ∈ ws, w.1 < base ∨ base + s.cfg.kPageSize ≤ w.1) →
    k = s.cfg.kSubpageSize → start = base + sp.toNat * k →
    s.prog = .request (sendPageWord pg sp) (some base) :: (writeActions ws ++ [.request 0x4000#16 none]) →
    runUnder agents s = .next t → t.prog = [] → t.seq = .rest →
    panelStream t.trace = panelStream s.trace ++
      [(.cmd, byteOf (0x10 ||| ((sp.toNat * k) >>> 4))), (.cmd, byteOf ((sp.toNat * k) &&& 0x0F)),
        (.cmd, byteOf (0xB0 ||| pg.toNat))] ++ (memSlice s.mem start k).map (fun b => (.data, b)) ∧
    t.trace.filter Event.isDmaRd = s.trace.filter Event.isDmaRd ++
      (List.range k).map (fun i => .dmaRd (start + i) (Memory.read s.mem (start + i))) ∧
    (∃ es : List Event, t.trace = s.trace ++ es ∧ (es.filter (fun e => e == .cs .deasserted)).length = 1) ∧
    t.inflight = false ∧ t.cs = .deasserted ∧ t.txq = [] ∧ t.dmaRemaining = 0 ∧ t.fault = s.fault ∧
    t.mem = ws.foldl (fun m w => Memory.write m w.1 w.2) s.mem

/-- R188, R290: under a schedule fair to the engine, the DMA and the bus, a `FLUSH` from any sound state, faulted or not,
returns within a bound given by the bytes the DMA has still to move and the bytes queued, with nothing in flight. -/
def Obligations.FlushReturnsUnderFairSchedules : Prop :=
  ∀ (s : State) (rounds : List (List Agent)),
    s.Sound → s.prog = [] → s.seq = .accept → s.reqWord = 0x4000#16 →
    (∀ r ∈ rounds, fairRound r) → 2 * s.dmaRemaining + s.txq.length + 6 ≤ rounds.length →
    ∃ t, runUnder rounds.flatten s = .next t ∧ t.seq = .rest ∧ t.inflight = false

/-- R161, R229 (`BusLive`): whatever the latched word, and whatever has faulted before, the engine is back at `REST` after
a bounded number of fair rounds. -/
def Obligations.EveryRequestReturnsUnderFairSchedules : Prop :=
  ∀ s : State, s.Sound → s.prog = [] →
    ∃ bound : Nat, ∀ rounds : List (List Agent),
      (∀ r ∈ rounds, fairRound r) → bound ≤ rounds.length →
      ∃ t, runUnder rounds.flatten s = .next t ∧ t.seq = .rest

/-- R118: `SEND_FRAME` expands to `SEND_PAGE p, s, fb + p*kPageSize` and `FLUSH` for each page and sub-page in increasing
order, `2 * kNumPages * kNumSubpages` requests in all; a frame whose last page starts past the address space cannot be
encoded (R116). -/
def Obligations.SendFrameExpandsInOrder : Prop :=
  ∀ (c : Config) (fb : Nat), c.wf →
    (fb + (c.kNumPages - 1) * c.kPageSize < 2 ^ c.addrW →
      ∃ prog : List Action, assemble c (.sendFrame fb) = some prog ∧
        prog.length = 2 * c.kNumPages * (c.kPageSize / c.kSubpageSize) ∧
        prog = (List.range c.kNumPages).flatMap (fun p =>
          (List.range (c.kPageSize / c.kSubpageSize)).flatMap (fun sub =>
            [.request (sendPageWord (BitVec.ofNat 4 p) (BitVec.ofNat 8 sub)) (some (fb + p * c.kPageSize)),
              .request 0x4000#16 none]))) ∧
    (2 ^ c.addrW ≤ fb + (c.kNumPages - 1) * c.kPageSize → assemble c (.sendFrame fb) = none)
end

