-- ==== Sys2Proof/Laws/Decode.lean ====
section
/-! SUPPORT. The nibble fields of a byte and the fields of a request word, read back from where the encoder puts them, and
what a decoded byte's encoding is. -/

namespace Sys2Proof

/-- A byte is its high nibble and its low one. -/
theorem Byte.high_append_low (b : Byte) : Byte.high b ++ Byte.low b = b := by
  revert b; decide

@[simp] theorem Byte.high_append (h l : BitVec 4) : Byte.high (h ++ l) = h := by
  revert h l; decide

@[simp] theorem Byte.low_append (h l : BitVec 4) : Byte.low (h ++ l) = l := by
  revert h l; decide

/-- The wire byte of a panel byte's instruction (R101 to R105); a host request has none. -/
def Instr.panelByte : Instr → Option Byte
  | .setColHi h => some (setColHiByte h)
  | .setColLo l => some (setColLoByte l)
  | .setPage p => some (setPageByte p)
  | .displayOn => some displayOnByte
  | .displayOff => some displayOffByte
  | .data d => some d
  | .init | .clear | .sendPage _ _ _ | .flush | .adjustOffset => none

/-- A decoded panel byte is the byte its instruction encodes to. -/
theorem panelByte_of_decodePanelByte (dc : DcMode) (b : Byte) (i : Instr) (h : decodePanelByte dc b = .ok i) :
    i.panelByte = some b := by
  cases dc with
  | data => cases h; rfl
  | cmd =>
    have hb := Byte.high_append_low b
    simp only [decodePanelByte, decodeCommand] at h
    split at h
    · rename_i hx; cases h; rw [hx]; rfl
    · split at h
      · rename_i hx; cases h; rw [hx]; rfl
      · split at h
        · rename_i hx; cases h; rw [hx] at hb; simp [Instr.panelByte, setColHiByte, hb]
        · split at h
          · rename_i hx; cases h; rw [hx] at hb; simp only [Instr.panelByte, setColLoByte, hb]
          · split at h
            · rename_i hx; cases h; rw [hx] at hb; simp only [Instr.panelByte, setPageByte, hb]
            · cases h

/-- A decoded request is one of the five host requests. -/
theorem decodeRequest_cases (w : ReqWord) (base : Nat) (i : Instr) (h : decodeRequest w base = .ok i) :
    i = .init ∨ i = .clear ∨ i = .sendPage (ReqWord.pg w) (ReqWord.sp w) base ∨ i = .flush ∨ i = .adjustOffset := by
  simp only [decodeRequest, decodeBare] at h
  split at h
  · split at h <;> cases h; simp
  · split at h
    · split at h <;> cases h; simp
    · split at h
      · cases h; simp
      · split at h
        · split at h <;> cases h; simp
        · split at h
          · split at h <;> cases h; simp
          · cases h

end Sys2Proof
end

