-- ==== Sys2Proof/Laws/State.lean ====
section
/-! SUPPORT. Each named operation, field by field: what it changes and that it leaves the rest. A proof cites these and
never unfolds a record update. -/

namespace Sys2Proof.Machine

/-! ## `emit` changes the trace and the panel that observes it -/

@[simp] theorem State.emit_cfg (e : Event) (s : State) : (s.emit e).cfg = s.cfg := rfl
@[simp] theorem State.emit_phase (e : Event) (s : State) : (s.emit e).phase = s.phase := rfl
@[simp] theorem State.emit_seq (e : Event) (s : State) : (s.emit e).seq = s.seq := rfl
@[simp] theorem State.emit_cmdbuf (e : Event) (s : State) : (s.emit e).cmdbuf = s.cmdbuf := rfl
@[simp] theorem State.emit_inflight (e : Event) (s : State) : (s.emit e).inflight = s.inflight := rfl
@[simp] theorem State.emit_initialised (e : Event) (s : State) : (s.emit e).initialised = s.initialised := rfl
@[simp] theorem State.emit_fault (e : Event) (s : State) : (s.emit e).fault = s.fault := rfl
@[simp] theorem State.emit_reqWord (e : Event) (s : State) : (s.emit e).reqWord = s.reqWord := rfl
@[simp] theorem State.emit_reqBase (e : Event) (s : State) : (s.emit e).reqBase = s.reqBase := rfl
@[simp] theorem State.emit_xferBase (e : Event) (s : State) : (s.emit e).xferBase = s.xferBase := rfl
@[simp] theorem State.emit_clearPage (e : Event) (s : State) : (s.emit e).clearPage = s.clearPage := rfl
@[simp] theorem State.emit_ret (e : Event) (s : State) : (s.emit e).ret = s.ret := rfl
@[simp] theorem State.emit_cs (e : Event) (s : State) : (s.emit e).cs = s.cs := rfl
@[simp] theorem State.emit_dc (e : Event) (s : State) : (s.emit e).dc = s.dc := rfl
@[simp] theorem State.emit_rst (e : Event) (s : State) : (s.emit e).rst = s.rst := rfl
@[simp] theorem State.emit_clk (e : Event) (s : State) : (s.emit e).clk = s.clk := rfl
@[simp] theorem State.emit_pinCfg (e : Event) (s : State) : (s.emit e).pinCfg = s.pinCfg := rfl
@[simp] theorem State.emit_dmaSrc (e : Event) (s : State) : (s.emit e).dmaSrc = s.dmaSrc := rfl
@[simp] theorem State.emit_dmaRemaining (e : Event) (s : State) : (s.emit e).dmaRemaining = s.dmaRemaining := rfl
@[simp] theorem State.emit_dmaActive (e : Event) (s : State) : (s.emit e).dmaActive = s.dmaActive := rfl
@[simp] theorem State.emit_dmaDone (e : Event) (s : State) : (s.emit e).dmaDone = s.dmaDone := rfl
@[simp] theorem State.emit_txq (e : Event) (s : State) : (s.emit e).txq = s.txq := rfl
@[simp] theorem State.emit_mem (e : Event) (s : State) : (s.emit e).mem = s.mem := rfl
@[simp] theorem State.emit_trace (e : Event) (s : State) : (s.emit e).trace = s.trace ++ [e] := rfl
@[simp] theorem State.emit_panel (e : Event) (s : State) : (s.emit e).panel = s.panel.observe e := rfl
@[simp] theorem State.emit_prog (e : Event) (s : State) : (s.emit e).prog = s.prog := rfl
@[simp] theorem State.emit_sched (e : Event) (s : State) : (s.emit e).sched = s.sched := rfl
@[simp] theorem State.emit_turn (e : Event) (s : State) : (s.emit e).turn = s.turn := rfl

/-! ## `push` changes the queue's tail -/

@[simp] theorem State.push_cfg (bs : List Byte) (s : State) : (s.push bs).cfg = s.cfg := rfl
@[simp] theorem State.push_phase (bs : List Byte) (s : State) : (s.push bs).phase = s.phase := rfl
@[simp] theorem State.push_seq (bs : List Byte) (s : State) : (s.push bs).seq = s.seq := rfl
@[simp] theorem State.push_cmdbuf (bs : List Byte) (s : State) : (s.push bs).cmdbuf = s.cmdbuf := rfl
@[simp] theorem State.push_inflight (bs : List Byte) (s : State) : (s.push bs).inflight = s.inflight := rfl
@[simp] theorem State.push_initialised (bs : List Byte) (s : State) : (s.push bs).initialised = s.initialised := rfl
@[simp] theorem State.push_fault (bs : List Byte) (s : State) : (s.push bs).fault = s.fault := rfl
@[simp] theorem State.push_reqWord (bs : List Byte) (s : State) : (s.push bs).reqWord = s.reqWord := rfl
@[simp] theorem State.push_reqBase (bs : List Byte) (s : State) : (s.push bs).reqBase = s.reqBase := rfl
@[simp] theorem State.push_xferBase (bs : List Byte) (s : State) : (s.push bs).xferBase = s.xferBase := rfl
@[simp] theorem State.push_clearPage (bs : List Byte) (s : State) : (s.push bs).clearPage = s.clearPage := rfl
@[simp] theorem State.push_ret (bs : List Byte) (s : State) : (s.push bs).ret = s.ret := rfl
@[simp] theorem State.push_cs (bs : List Byte) (s : State) : (s.push bs).cs = s.cs := rfl
@[simp] theorem State.push_dc (bs : List Byte) (s : State) : (s.push bs).dc = s.dc := rfl
@[simp] theorem State.push_rst (bs : List Byte) (s : State) : (s.push bs).rst = s.rst := rfl
@[simp] theorem State.push_clk (bs : List Byte) (s : State) : (s.push bs).clk = s.clk := rfl
@[simp] theorem State.push_pinCfg (bs : List Byte) (s : State) : (s.push bs).pinCfg = s.pinCfg := rfl
@[simp] theorem State.push_dmaSrc (bs : List Byte) (s : State) : (s.push bs).dmaSrc = s.dmaSrc := rfl
@[simp] theorem State.push_dmaRemaining (bs : List Byte) (s : State) : (s.push bs).dmaRemaining = s.dmaRemaining := rfl
@[simp] theorem State.push_dmaActive (bs : List Byte) (s : State) : (s.push bs).dmaActive = s.dmaActive := rfl
@[simp] theorem State.push_dmaDone (bs : List Byte) (s : State) : (s.push bs).dmaDone = s.dmaDone := rfl
@[simp] theorem State.push_txq (bs : List Byte) (s : State) : (s.push bs).txq = s.txq ++ bs := rfl
@[simp] theorem State.push_mem (bs : List Byte) (s : State) : (s.push bs).mem = s.mem := rfl
@[simp] theorem State.push_trace (bs : List Byte) (s : State) : (s.push bs).trace = s.trace := rfl
@[simp] theorem State.push_panel (bs : List Byte) (s : State) : (s.push bs).panel = s.panel := rfl
@[simp] theorem State.push_prog (bs : List Byte) (s : State) : (s.push bs).prog = s.prog := rfl
@[simp] theorem State.push_sched (bs : List Byte) (s : State) : (s.push bs).sched = s.sched := rfl
@[simp] theorem State.push_turn (bs : List Byte) (s : State) : (s.push bs).turn = s.turn := rfl

/-! ## `raise` changes the fault bit and the trace (R250) -/

@[simp] theorem State.raise_cfg (f : FaultCode) (info : FaultInfo) (s : State) : (s.raise f info).cfg = s.cfg := rfl
@[simp] theorem State.raise_phase (f : FaultCode) (info : FaultInfo) (s : State) : (s.raise f info).phase = s.phase := rfl
@[simp] theorem State.raise_seq (f : FaultCode) (info : FaultInfo) (s : State) : (s.raise f info).seq = s.seq := rfl
@[simp] theorem State.raise_cmdbuf (f : FaultCode) (info : FaultInfo) (s : State) : (s.raise f info).cmdbuf = s.cmdbuf := rfl
@[simp] theorem State.raise_inflight (f : FaultCode) (info : FaultInfo) (s : State) : (s.raise f info).inflight = s.inflight := rfl
@[simp] theorem State.raise_initialised (f : FaultCode) (info : FaultInfo) (s : State) : (s.raise f info).initialised = s.initialised := rfl
@[simp] theorem State.raise_fault (f : FaultCode) (info : FaultInfo) (s : State) : (s.raise f info).fault = s.fault ||| f.bit := rfl
@[simp] theorem State.raise_reqWord (f : FaultCode) (info : FaultInfo) (s : State) : (s.raise f info).reqWord = s.reqWord := rfl
@[simp] theorem State.raise_reqBase (f : FaultCode) (info : FaultInfo) (s : State) : (s.raise f info).reqBase = s.reqBase := rfl
@[simp] theorem State.raise_xferBase (f : FaultCode) (info : FaultInfo) (s : State) : (s.raise f info).xferBase = s.xferBase := rfl
@[simp] theorem State.raise_clearPage (f : FaultCode) (info : FaultInfo) (s : State) : (s.raise f info).clearPage = s.clearPage := rfl
@[simp] theorem State.raise_ret (f : FaultCode) (info : FaultInfo) (s : State) : (s.raise f info).ret = s.ret := rfl
@[simp] theorem State.raise_cs (f : FaultCode) (info : FaultInfo) (s : State) : (s.raise f info).cs = s.cs := rfl
@[simp] theorem State.raise_dc (f : FaultCode) (info : FaultInfo) (s : State) : (s.raise f info).dc = s.dc := rfl
@[simp] theorem State.raise_rst (f : FaultCode) (info : FaultInfo) (s : State) : (s.raise f info).rst = s.rst := rfl
@[simp] theorem State.raise_clk (f : FaultCode) (info : FaultInfo) (s : State) : (s.raise f info).clk = s.clk := rfl
@[simp] theorem State.raise_pinCfg (f : FaultCode) (info : FaultInfo) (s : State) : (s.raise f info).pinCfg = s.pinCfg := rfl
@[simp] theorem State.raise_dmaSrc (f : FaultCode) (info : FaultInfo) (s : State) : (s.raise f info).dmaSrc = s.dmaSrc := rfl
@[simp] theorem State.raise_dmaRemaining (f : FaultCode) (info : FaultInfo) (s : State) : (s.raise f info).dmaRemaining = s.dmaRemaining := rfl
@[simp] theorem State.raise_dmaActive (f : FaultCode) (info : FaultInfo) (s : State) : (s.raise f info).dmaActive = s.dmaActive := rfl
@[simp] theorem State.raise_dmaDone (f : FaultCode) (info : FaultInfo) (s : State) : (s.raise f info).dmaDone = s.dmaDone := rfl
@[simp] theorem State.raise_txq (f : FaultCode) (info : FaultInfo) (s : State) : (s.raise f info).txq = s.txq := rfl
@[simp] theorem State.raise_mem (f : FaultCode) (info : FaultInfo) (s : State) : (s.raise f info).mem = s.mem := rfl
@[simp] theorem State.raise_trace (f : FaultCode) (info : FaultInfo) (s : State) : (s.raise f info).trace = s.trace ++ [.fault f info] := rfl
@[simp] theorem State.raise_panel (f : FaultCode) (info : FaultInfo) (s : State) : (s.raise f info).panel = s.panel := rfl
@[simp] theorem State.raise_prog (f : FaultCode) (info : FaultInfo) (s : State) : (s.raise f info).prog = s.prog := rfl
@[simp] theorem State.raise_sched (f : FaultCode) (info : FaultInfo) (s : State) : (s.raise f info).sched = s.sched := rfl
@[simp] theorem State.raise_turn (f : FaultCode) (info : FaultInfo) (s : State) : (s.raise f info).turn = s.turn := rfl

/-! ## `dropRequest` changes what `raise` changes, and the sequencer (R251) -/

@[simp] theorem State.dropRequest_cfg (f : FaultCode) (info : FaultInfo) (s : State) : (s.dropRequest f info).cfg = s.cfg := rfl
@[simp] theorem State.dropRequest_phase (f : FaultCode) (info : FaultInfo) (s : State) : (s.dropRequest f info).phase = s.phase := rfl
@[simp] theorem State.dropRequest_seq (f : FaultCode) (info : FaultInfo) (s : State) : (s.dropRequest f info).seq = .rest := rfl
@[simp] theorem State.dropRequest_cmdbuf (f : FaultCode) (info : FaultInfo) (s : State) : (s.dropRequest f info).cmdbuf = s.cmdbuf := rfl
@[simp] theorem State.dropRequest_inflight (f : FaultCode) (info : FaultInfo) (s : State) : (s.dropRequest f info).inflight = s.inflight := rfl
@[simp] theorem State.dropRequest_initialised (f : FaultCode) (info : FaultInfo) (s : State) : (s.dropRequest f info).initialised = s.initialised := rfl
@[simp] theorem State.dropRequest_fault (f : FaultCode) (info : FaultInfo) (s : State) : (s.dropRequest f info).fault = s.fault ||| f.bit := rfl
@[simp] theorem State.dropRequest_reqWord (f : FaultCode) (info : FaultInfo) (s : State) : (s.dropRequest f info).reqWord = s.reqWord := rfl
@[simp] theorem State.dropRequest_reqBase (f : FaultCode) (info : FaultInfo) (s : State) : (s.dropRequest f info).reqBase = s.reqBase := rfl
@[simp] theorem State.dropRequest_xferBase (f : FaultCode) (info : FaultInfo) (s : State) : (s.dropRequest f info).xferBase = s.xferBase := rfl
@[simp] theorem State.dropRequest_clearPage (f : FaultCode) (info : FaultInfo) (s : State) : (s.dropRequest f info).clearPage = s.clearPage := rfl
@[simp] theorem State.dropRequest_ret (f : FaultCode) (info : FaultInfo) (s : State) : (s.dropRequest f info).ret = s.ret := rfl
@[simp] theorem State.dropRequest_cs (f : FaultCode) (info : FaultInfo) (s : State) : (s.dropRequest f info).cs = s.cs := rfl
@[simp] theorem State.dropRequest_dc (f : FaultCode) (info : FaultInfo) (s : State) : (s.dropRequest f info).dc = s.dc := rfl
@[simp] theorem State.dropRequest_rst (f : FaultCode) (info : FaultInfo) (s : State) : (s.dropRequest f info).rst = s.rst := rfl
@[simp] theorem State.dropRequest_clk (f : FaultCode) (info : FaultInfo) (s : State) : (s.dropRequest f info).clk = s.clk := rfl
@[simp] theorem State.dropRequest_pinCfg (f : FaultCode) (info : FaultInfo) (s : State) : (s.dropRequest f info).pinCfg = s.pinCfg := rfl
@[simp] theorem State.dropRequest_dmaSrc (f : FaultCode) (info : FaultInfo) (s : State) : (s.dropRequest f info).dmaSrc = s.dmaSrc := rfl
@[simp] theorem State.dropRequest_dmaRemaining (f : FaultCode) (info : FaultInfo) (s : State) : (s.dropRequest f info).dmaRemaining = s.dmaRemaining := rfl
@[simp] theorem State.dropRequest_dmaActive (f : FaultCode) (info : FaultInfo) (s : State) : (s.dropRequest f info).dmaActive = s.dmaActive := rfl
@[simp] theorem State.dropRequest_dmaDone (f : FaultCode) (info : FaultInfo) (s : State) : (s.dropRequest f info).dmaDone = s.dmaDone := rfl
@[simp] theorem State.dropRequest_txq (f : FaultCode) (info : FaultInfo) (s : State) : (s.dropRequest f info).txq = s.txq := rfl
@[simp] theorem State.dropRequest_mem (f : FaultCode) (info : FaultInfo) (s : State) : (s.dropRequest f info).mem = s.mem := rfl
@[simp] theorem State.dropRequest_trace (f : FaultCode) (info : FaultInfo) (s : State) : (s.dropRequest f info).trace = s.trace ++ [.fault f info] := rfl
@[simp] theorem State.dropRequest_panel (f : FaultCode) (info : FaultInfo) (s : State) : (s.dropRequest f info).panel = s.panel := rfl
@[simp] theorem State.dropRequest_prog (f : FaultCode) (info : FaultInfo) (s : State) : (s.dropRequest f info).prog = s.prog := rfl
@[simp] theorem State.dropRequest_sched (f : FaultCode) (info : FaultInfo) (s : State) : (s.dropRequest f info).sched = s.sched := rfl
@[simp] theorem State.dropRequest_turn (f : FaultCode) (info : FaultInfo) (s : State) : (s.dropRequest f info).turn = s.turn := rfl

/-! ## `writeCs` changes chip-select and the trace -/

@[simp] theorem State.writeCs_cfg (l : CsLevel) (s : State) : (s.writeCs l).cfg = s.cfg := rfl
@[simp] theorem State.writeCs_phase (l : CsLevel) (s : State) : (s.writeCs l).phase = s.phase := rfl
@[simp] theorem State.writeCs_seq (l : CsLevel) (s : State) : (s.writeCs l).seq = s.seq := rfl
@[simp] theorem State.writeCs_cmdbuf (l : CsLevel) (s : State) : (s.writeCs l).cmdbuf = s.cmdbuf := rfl
@[simp] theorem State.writeCs_inflight (l : CsLevel) (s : State) : (s.writeCs l).inflight = s.inflight := rfl
@[simp] theorem State.writeCs_initialised (l : CsLevel) (s : State) : (s.writeCs l).initialised = s.initialised := rfl
@[simp] theorem State.writeCs_fault (l : CsLevel) (s : State) : (s.writeCs l).fault = s.fault := rfl
@[simp] theorem State.writeCs_reqWord (l : CsLevel) (s : State) : (s.writeCs l).reqWord = s.reqWord := rfl
@[simp] theorem State.writeCs_reqBase (l : CsLevel) (s : State) : (s.writeCs l).reqBase = s.reqBase := rfl
@[simp] theorem State.writeCs_xferBase (l : CsLevel) (s : State) : (s.writeCs l).xferBase = s.xferBase := rfl
@[simp] theorem State.writeCs_clearPage (l : CsLevel) (s : State) : (s.writeCs l).clearPage = s.clearPage := rfl
@[simp] theorem State.writeCs_ret (l : CsLevel) (s : State) : (s.writeCs l).ret = s.ret := rfl
@[simp] theorem State.writeCs_cs (l : CsLevel) (s : State) : (s.writeCs l).cs = l := rfl
@[simp] theorem State.writeCs_dc (l : CsLevel) (s : State) : (s.writeCs l).dc = s.dc := rfl
@[simp] theorem State.writeCs_rst (l : CsLevel) (s : State) : (s.writeCs l).rst = s.rst := rfl
@[simp] theorem State.writeCs_clk (l : CsLevel) (s : State) : (s.writeCs l).clk = s.clk := rfl
@[simp] theorem State.writeCs_pinCfg (l : CsLevel) (s : State) : (s.writeCs l).pinCfg = s.pinCfg := rfl
@[simp] theorem State.writeCs_dmaSrc (l : CsLevel) (s : State) : (s.writeCs l).dmaSrc = s.dmaSrc := rfl
@[simp] theorem State.writeCs_dmaRemaining (l : CsLevel) (s : State) : (s.writeCs l).dmaRemaining = s.dmaRemaining := rfl
@[simp] theorem State.writeCs_dmaActive (l : CsLevel) (s : State) : (s.writeCs l).dmaActive = s.dmaActive := rfl
@[simp] theorem State.writeCs_dmaDone (l : CsLevel) (s : State) : (s.writeCs l).dmaDone = s.dmaDone := rfl
@[simp] theorem State.writeCs_txq (l : CsLevel) (s : State) : (s.writeCs l).txq = s.txq := rfl
@[simp] theorem State.writeCs_mem (l : CsLevel) (s : State) : (s.writeCs l).mem = s.mem := rfl
@[simp] theorem State.writeCs_trace (l : CsLevel) (s : State) : (s.writeCs l).trace = s.trace ++ [.cs l] := rfl
@[simp] theorem State.writeCs_panel (l : CsLevel) (s : State) : (s.writeCs l).panel = s.panel := rfl
@[simp] theorem State.writeCs_prog (l : CsLevel) (s : State) : (s.writeCs l).prog = s.prog := rfl
@[simp] theorem State.writeCs_sched (l : CsLevel) (s : State) : (s.writeCs l).sched = s.sched := rfl
@[simp] theorem State.writeCs_turn (l : CsLevel) (s : State) : (s.writeCs l).turn = s.turn := rfl

/-! ## `writeDc` changes the mode select and the trace -/

@[simp] theorem State.writeDc_cfg (m : DcMode) (s : State) : (s.writeDc m).cfg = s.cfg := rfl
@[simp] theorem State.writeDc_phase (m : DcMode) (s : State) : (s.writeDc m).phase = s.phase := rfl
@[simp] theorem State.writeDc_seq (m : DcMode) (s : State) : (s.writeDc m).seq = s.seq := rfl
@[simp] theorem State.writeDc_cmdbuf (m : DcMode) (s : State) : (s.writeDc m).cmdbuf = s.cmdbuf := rfl
@[simp] theorem State.writeDc_inflight (m : DcMode) (s : State) : (s.writeDc m).inflight = s.inflight := rfl
@[simp] theorem State.writeDc_initialised (m : DcMode) (s : State) : (s.writeDc m).initialised = s.initialised := rfl
@[simp] theorem State.writeDc_fault (m : DcMode) (s : State) : (s.writeDc m).fault = s.fault := rfl
@[simp] theorem State.writeDc_reqWord (m : DcMode) (s : State) : (s.writeDc m).reqWord = s.reqWord := rfl
@[simp] theorem State.writeDc_reqBase (m : DcMode) (s : State) : (s.writeDc m).reqBase = s.reqBase := rfl
@[simp] theorem State.writeDc_xferBase (m : DcMode) (s : State) : (s.writeDc m).xferBase = s.xferBase := rfl
@[simp] theorem State.writeDc_clearPage (m : DcMode) (s : State) : (s.writeDc m).clearPage = s.clearPage := rfl
@[simp] theorem State.writeDc_ret (m : DcMode) (s : State) : (s.writeDc m).ret = s.ret := rfl
@[simp] theorem State.writeDc_cs (m : DcMode) (s : State) : (s.writeDc m).cs = s.cs := rfl
@[simp] theorem State.writeDc_dc (m : DcMode) (s : State) : (s.writeDc m).dc = m := rfl
@[simp] theorem State.writeDc_rst (m : DcMode) (s : State) : (s.writeDc m).rst = s.rst := rfl
@[simp] theorem State.writeDc_clk (m : DcMode) (s : State) : (s.writeDc m).clk = s.clk := rfl
@[simp] theorem State.writeDc_pinCfg (m : DcMode) (s : State) : (s.writeDc m).pinCfg = s.pinCfg := rfl
@[simp] theorem State.writeDc_dmaSrc (m : DcMode) (s : State) : (s.writeDc m).dmaSrc = s.dmaSrc := rfl
@[simp] theorem State.writeDc_dmaRemaining (m : DcMode) (s : State) : (s.writeDc m).dmaRemaining = s.dmaRemaining := rfl
@[simp] theorem State.writeDc_dmaActive (m : DcMode) (s : State) : (s.writeDc m).dmaActive = s.dmaActive := rfl
@[simp] theorem State.writeDc_dmaDone (m : DcMode) (s : State) : (s.writeDc m).dmaDone = s.dmaDone := rfl
@[simp] theorem State.writeDc_txq (m : DcMode) (s : State) : (s.writeDc m).txq = s.txq := rfl
@[simp] theorem State.writeDc_mem (m : DcMode) (s : State) : (s.writeDc m).mem = s.mem := rfl
@[simp] theorem State.writeDc_trace (m : DcMode) (s : State) : (s.writeDc m).trace = s.trace ++ [.dc m] := rfl
@[simp] theorem State.writeDc_panel (m : DcMode) (s : State) : (s.writeDc m).panel = s.panel := rfl
@[simp] theorem State.writeDc_prog (m : DcMode) (s : State) : (s.writeDc m).prog = s.prog := rfl
@[simp] theorem State.writeDc_sched (m : DcMode) (s : State) : (s.writeDc m).sched = s.sched := rfl
@[simp] theorem State.writeDc_turn (m : DcMode) (s : State) : (s.writeDc m).turn = s.turn := rfl

/-! ## `writeRst` changes the panel reset line, the trace, and the panel behind it -/

@[simp] theorem State.writeRst_cfg (l : RstLevel) (s : State) : (s.writeRst l).cfg = s.cfg := rfl
@[simp] theorem State.writeRst_phase (l : RstLevel) (s : State) : (s.writeRst l).phase = s.phase := rfl
@[simp] theorem State.writeRst_seq (l : RstLevel) (s : State) : (s.writeRst l).seq = s.seq := rfl
@[simp] theorem State.writeRst_cmdbuf (l : RstLevel) (s : State) : (s.writeRst l).cmdbuf = s.cmdbuf := rfl
@[simp] theorem State.writeRst_inflight (l : RstLevel) (s : State) : (s.writeRst l).inflight = s.inflight := rfl
@[simp] theorem State.writeRst_initialised (l : RstLevel) (s : State) : (s.writeRst l).initialised = s.initialised := rfl
@[simp] theorem State.writeRst_fault (l : RstLevel) (s : State) : (s.writeRst l).fault = s.fault := rfl
@[simp] theorem State.writeRst_reqWord (l : RstLevel) (s : State) : (s.writeRst l).reqWord = s.reqWord := rfl
@[simp] theorem State.writeRst_reqBase (l : RstLevel) (s : State) : (s.writeRst l).reqBase = s.reqBase := rfl
@[simp] theorem State.writeRst_xferBase (l : RstLevel) (s : State) : (s.writeRst l).xferBase = s.xferBase := rfl
@[simp] theorem State.writeRst_clearPage (l : RstLevel) (s : State) : (s.writeRst l).clearPage = s.clearPage := rfl
@[simp] theorem State.writeRst_ret (l : RstLevel) (s : State) : (s.writeRst l).ret = s.ret := rfl
@[simp] theorem State.writeRst_cs (l : RstLevel) (s : State) : (s.writeRst l).cs = s.cs := rfl
@[simp] theorem State.writeRst_dc (l : RstLevel) (s : State) : (s.writeRst l).dc = s.dc := rfl
@[simp] theorem State.writeRst_rst (l : RstLevel) (s : State) : (s.writeRst l).rst = l := rfl
@[simp] theorem State.writeRst_clk (l : RstLevel) (s : State) : (s.writeRst l).clk = s.clk := rfl
@[simp] theorem State.writeRst_pinCfg (l : RstLevel) (s : State) : (s.writeRst l).pinCfg = s.pinCfg := rfl
@[simp] theorem State.writeRst_dmaSrc (l : RstLevel) (s : State) : (s.writeRst l).dmaSrc = s.dmaSrc := rfl
@[simp] theorem State.writeRst_dmaRemaining (l : RstLevel) (s : State) : (s.writeRst l).dmaRemaining = s.dmaRemaining := rfl
@[simp] theorem State.writeRst_dmaActive (l : RstLevel) (s : State) : (s.writeRst l).dmaActive = s.dmaActive := rfl
@[simp] theorem State.writeRst_dmaDone (l : RstLevel) (s : State) : (s.writeRst l).dmaDone = s.dmaDone := rfl
@[simp] theorem State.writeRst_txq (l : RstLevel) (s : State) : (s.writeRst l).txq = s.txq := rfl
@[simp] theorem State.writeRst_mem (l : RstLevel) (s : State) : (s.writeRst l).mem = s.mem := rfl
@[simp] theorem State.writeRst_trace (l : RstLevel) (s : State) : (s.writeRst l).trace = s.trace ++ [.rst l] := rfl
@[simp] theorem State.writeRst_panel (l : RstLevel) (s : State) : (s.writeRst l).panel = s.panel.observe (.rst l) := rfl
@[simp] theorem State.writeRst_prog (l : RstLevel) (s : State) : (s.writeRst l).prog = s.prog := rfl
@[simp] theorem State.writeRst_sched (l : RstLevel) (s : State) : (s.writeRst l).sched = s.sched := rfl
@[simp] theorem State.writeRst_turn (l : RstLevel) (s : State) : (s.writeRst l).turn = s.turn := rfl

/-! ## `writeClk` changes the clock setting and the trace -/

@[simp] theorem State.writeClk_cfg (r : Rate) (s : State) : (s.writeClk r).cfg = s.cfg := rfl
@[simp] theorem State.writeClk_phase (r : Rate) (s : State) : (s.writeClk r).phase = s.phase := rfl
@[simp] theorem State.writeClk_seq (r : Rate) (s : State) : (s.writeClk r).seq = s.seq := rfl
@[simp] theorem State.writeClk_cmdbuf (r : Rate) (s : State) : (s.writeClk r).cmdbuf = s.cmdbuf := rfl
@[simp] theorem State.writeClk_inflight (r : Rate) (s : State) : (s.writeClk r).inflight = s.inflight := rfl
@[simp] theorem State.writeClk_initialised (r : Rate) (s : State) : (s.writeClk r).initialised = s.initialised := rfl
@[simp] theorem State.writeClk_fault (r : Rate) (s : State) : (s.writeClk r).fault = s.fault := rfl
@[simp] theorem State.writeClk_reqWord (r : Rate) (s : State) : (s.writeClk r).reqWord = s.reqWord := rfl
@[simp] theorem State.writeClk_reqBase (r : Rate) (s : State) : (s.writeClk r).reqBase = s.reqBase := rfl
@[simp] theorem State.writeClk_xferBase (r : Rate) (s : State) : (s.writeClk r).xferBase = s.xferBase := rfl
@[simp] theorem State.writeClk_clearPage (r : Rate) (s : State) : (s.writeClk r).clearPage = s.clearPage := rfl
@[simp] theorem State.writeClk_ret (r : Rate) (s : State) : (s.writeClk r).ret = s.ret := rfl
@[simp] theorem State.writeClk_cs (r : Rate) (s : State) : (s.writeClk r).cs = s.cs := rfl
@[simp] theorem State.writeClk_dc (r : Rate) (s : State) : (s.writeClk r).dc = s.dc := rfl
@[simp] theorem State.writeClk_rst (r : Rate) (s : State) : (s.writeClk r).rst = s.rst := rfl
@[simp] theorem State.writeClk_clk (r : Rate) (s : State) : (s.writeClk r).clk = r.toClk := rfl
@[simp] theorem State.writeClk_pinCfg (r : Rate) (s : State) : (s.writeClk r).pinCfg = s.pinCfg := rfl
@[simp] theorem State.writeClk_dmaSrc (r : Rate) (s : State) : (s.writeClk r).dmaSrc = s.dmaSrc := rfl
@[simp] theorem State.writeClk_dmaRemaining (r : Rate) (s : State) : (s.writeClk r).dmaRemaining = s.dmaRemaining := rfl
@[simp] theorem State.writeClk_dmaActive (r : Rate) (s : State) : (s.writeClk r).dmaActive = s.dmaActive := rfl
@[simp] theorem State.writeClk_dmaDone (r : Rate) (s : State) : (s.writeClk r).dmaDone = s.dmaDone := rfl
@[simp] theorem State.writeClk_txq (r : Rate) (s : State) : (s.writeClk r).txq = s.txq := rfl
@[simp] theorem State.writeClk_mem (r : Rate) (s : State) : (s.writeClk r).mem = s.mem := rfl
@[simp] theorem State.writeClk_trace (r : Rate) (s : State) : (s.writeClk r).trace = s.trace ++ [.clk r] := rfl
@[simp] theorem State.writeClk_panel (r : Rate) (s : State) : (s.writeClk r).panel = s.panel := rfl
@[simp] theorem State.writeClk_prog (r : Rate) (s : State) : (s.writeClk r).prog = s.prog := rfl
@[simp] theorem State.writeClk_sched (r : Rate) (s : State) : (s.writeClk r).sched = s.sched := rfl
@[simp] theorem State.writeClk_turn (r : Rate) (s : State) : (s.writeClk r).turn = s.turn := rfl

/-! ## `transmit` changes the trace and the panel behind the wire -/

@[simp] theorem State.transmit_cfg (b : Byte) (s : State) : (s.transmit b).cfg = s.cfg := rfl
@[simp] theorem State.transmit_phase (b : Byte) (s : State) : (s.transmit b).phase = s.phase := rfl
@[simp] theorem State.transmit_seq (b : Byte) (s : State) : (s.transmit b).seq = s.seq := rfl
@[simp] theorem State.transmit_cmdbuf (b : Byte) (s : State) : (s.transmit b).cmdbuf = s.cmdbuf := rfl
@[simp] theorem State.transmit_inflight (b : Byte) (s : State) : (s.transmit b).inflight = s.inflight := rfl
@[simp] theorem State.transmit_initialised (b : Byte) (s : State) : (s.transmit b).initialised = s.initialised := rfl
@[simp] theorem State.transmit_fault (b : Byte) (s : State) : (s.transmit b).fault = s.fault := rfl
@[simp] theorem State.transmit_reqWord (b : Byte) (s : State) : (s.transmit b).reqWord = s.reqWord := rfl
@[simp] theorem State.transmit_reqBase (b : Byte) (s : State) : (s.transmit b).reqBase = s.reqBase := rfl
@[simp] theorem State.transmit_xferBase (b : Byte) (s : State) : (s.transmit b).xferBase = s.xferBase := rfl
@[simp] theorem State.transmit_clearPage (b : Byte) (s : State) : (s.transmit b).clearPage = s.clearPage := rfl
@[simp] theorem State.transmit_ret (b : Byte) (s : State) : (s.transmit b).ret = s.ret := rfl
@[simp] theorem State.transmit_cs (b : Byte) (s : State) : (s.transmit b).cs = s.cs := rfl
@[simp] theorem State.transmit_dc (b : Byte) (s : State) : (s.transmit b).dc = s.dc := rfl
@[simp] theorem State.transmit_rst (b : Byte) (s : State) : (s.transmit b).rst = s.rst := rfl
@[simp] theorem State.transmit_clk (b : Byte) (s : State) : (s.transmit b).clk = s.clk := rfl
@[simp] theorem State.transmit_pinCfg (b : Byte) (s : State) : (s.transmit b).pinCfg = s.pinCfg := rfl
@[simp] theorem State.transmit_dmaSrc (b : Byte) (s : State) : (s.transmit b).dmaSrc = s.dmaSrc := rfl
@[simp] theorem State.transmit_dmaRemaining (b : Byte) (s : State) : (s.transmit b).dmaRemaining = s.dmaRemaining := rfl
@[simp] theorem State.transmit_dmaActive (b : Byte) (s : State) : (s.transmit b).dmaActive = s.dmaActive := rfl
@[simp] theorem State.transmit_dmaDone (b : Byte) (s : State) : (s.transmit b).dmaDone = s.dmaDone := rfl
@[simp] theorem State.transmit_txq (b : Byte) (s : State) : (s.transmit b).txq = s.txq := rfl
@[simp] theorem State.transmit_mem (b : Byte) (s : State) : (s.transmit b).mem = s.mem := rfl
@[simp] theorem State.transmit_trace (b : Byte) (s : State) : (s.transmit b).trace = s.trace ++ [.tx s.cs s.dc b] := rfl
@[simp] theorem State.transmit_panel (b : Byte) (s : State) : (s.transmit b).panel = s.panel.observe (.tx s.cs s.dc b) := rfl
@[simp] theorem State.transmit_prog (b : Byte) (s : State) : (s.transmit b).prog = s.prog := rfl
@[simp] theorem State.transmit_sched (b : Byte) (s : State) : (s.transmit b).sched = s.sched := rfl
@[simp] theorem State.transmit_turn (b : Byte) (s : State) : (s.transmit b).turn = s.turn := rfl

/-! ## `memWrite` changes host memory -/

@[simp] theorem State.memWrite_cfg (a : Nat) (v : Byte) (s : State) : (s.memWrite a v).cfg = s.cfg := rfl
@[simp] theorem State.memWrite_phase (a : Nat) (v : Byte) (s : State) : (s.memWrite a v).phase = s.phase := rfl
@[simp] theorem State.memWrite_seq (a : Nat) (v : Byte) (s : State) : (s.memWrite a v).seq = s.seq := rfl
@[simp] theorem State.memWrite_cmdbuf (a : Nat) (v : Byte) (s : State) : (s.memWrite a v).cmdbuf = s.cmdbuf := rfl
@[simp] theorem State.memWrite_inflight (a : Nat) (v : Byte) (s : State) : (s.memWrite a v).inflight = s.inflight := rfl
@[simp] theorem State.memWrite_initialised (a : Nat) (v : Byte) (s : State) : (s.memWrite a v).initialised = s.initialised := rfl
@[simp] theorem State.memWrite_fault (a : Nat) (v : Byte) (s : State) : (s.memWrite a v).fault = s.fault := rfl
@[simp] theorem State.memWrite_reqWord (a : Nat) (v : Byte) (s : State) : (s.memWrite a v).reqWord = s.reqWord := rfl
@[simp] theorem State.memWrite_reqBase (a : Nat) (v : Byte) (s : State) : (s.memWrite a v).reqBase = s.reqBase := rfl
@[simp] theorem State.memWrite_xferBase (a : Nat) (v : Byte) (s : State) : (s.memWrite a v).xferBase = s.xferBase := rfl
@[simp] theorem State.memWrite_clearPage (a : Nat) (v : Byte) (s : State) : (s.memWrite a v).clearPage = s.clearPage := rfl
@[simp] theorem State.memWrite_ret (a : Nat) (v : Byte) (s : State) : (s.memWrite a v).ret = s.ret := rfl
@[simp] theorem State.memWrite_cs (a : Nat) (v : Byte) (s : State) : (s.memWrite a v).cs = s.cs := rfl
@[simp] theorem State.memWrite_dc (a : Nat) (v : Byte) (s : State) : (s.memWrite a v).dc = s.dc := rfl
@[simp] theorem State.memWrite_rst (a : Nat) (v : Byte) (s : State) : (s.memWrite a v).rst = s.rst := rfl
@[simp] theorem State.memWrite_clk (a : Nat) (v : Byte) (s : State) : (s.memWrite a v).clk = s.clk := rfl
@[simp] theorem State.memWrite_pinCfg (a : Nat) (v : Byte) (s : State) : (s.memWrite a v).pinCfg = s.pinCfg := rfl
@[simp] theorem State.memWrite_dmaSrc (a : Nat) (v : Byte) (s : State) : (s.memWrite a v).dmaSrc = s.dmaSrc := rfl
@[simp] theorem State.memWrite_dmaRemaining (a : Nat) (v : Byte) (s : State) : (s.memWrite a v).dmaRemaining = s.dmaRemaining := rfl
@[simp] theorem State.memWrite_dmaActive (a : Nat) (v : Byte) (s : State) : (s.memWrite a v).dmaActive = s.dmaActive := rfl
@[simp] theorem State.memWrite_dmaDone (a : Nat) (v : Byte) (s : State) : (s.memWrite a v).dmaDone = s.dmaDone := rfl
@[simp] theorem State.memWrite_txq (a : Nat) (v : Byte) (s : State) : (s.memWrite a v).txq = s.txq := rfl
@[simp] theorem State.memWrite_mem (a : Nat) (v : Byte) (s : State) : (s.memWrite a v).mem = Memory.write s.mem a v := rfl
@[simp] theorem State.memWrite_trace (a : Nat) (v : Byte) (s : State) : (s.memWrite a v).trace = s.trace := rfl
@[simp] theorem State.memWrite_panel (a : Nat) (v : Byte) (s : State) : (s.memWrite a v).panel = s.panel := rfl
@[simp] theorem State.memWrite_prog (a : Nat) (v : Byte) (s : State) : (s.memWrite a v).prog = s.prog := rfl
@[simp] theorem State.memWrite_sched (a : Nat) (v : Byte) (s : State) : (s.memWrite a v).sched = s.sched := rfl
@[simp] theorem State.memWrite_turn (a : Nat) (v : Byte) (s : State) : (s.memWrite a v).turn = s.turn := rfl

end Sys2Proof.Machine
end

