-- ==== Sys2Proof/Laws/Ops.lean ====
section
/-! SUPPORT. One lemma for each shared operation that is more than a record update. -/

namespace Sys2Proof.Machine

/-- A fault bit that is set stays set, whatever is raised (R250). -/
theorem and_or_self (x y : BitVec 7) : x &&& (x ||| y) = x := by
  ext i hi; simp; tauto

/-- The reference panel sees bytes sent with chip-select Asserted and the reset line asserted, and no other event. -/
theorem Panel.observe_eq_self (p : Panel) (e : Event) (ht : ∀ m b, e ≠ .tx .asserted m b) (hr : e ≠ .rst .asserted) :
    p.observe e = p := by
  cases e with
  | tx l m b => cases l with
    | asserted => exact absurd rfl (ht m b)
    | deasserted => rfl
  | rst l => cases l with
    | asserted => exact absurd rfl hr
    | released => rfl
  | _ => rfl

/-- `MemRead` answers a byte exactly at the addresses of `Mem` (R70). -/
theorem State.memRead_eq_some (s : State) (a : Nat) (h : s.cfg.fitsAddr a) :
    s.memRead a = some (Memory.read s.mem a) := if_pos h

theorem State.memRead_eq_none (s : State) (a : Nat) (h : ¬ s.cfg.fitsAddr a) : s.memRead a = none := if_neg h

/-- The sub-pages of a page tile it: an in-range sub-page's burst ends inside the page (R9, R131). -/
theorem burst_in_page (c : Config) (sub : Nat) (h : sub < numSubpages c) :
    sub * c.kSubpageSize + c.kSubpageSize ≤ c.kPageSize := by
  have h1 : (sub + 1) * c.kSubpageSize ≤ c.kPageSize / c.kSubpageSize * c.kSubpageSize := Nat.mul_le_mul_right _ h
  have h2 := Nat.div_mul_le_self c.kPageSize c.kSubpageSize
  rw [Nat.add_mul] at h1
  omega

/-- An in-range `SEND_PAGE`'s burst lies in the address space (R75). -/
theorem burst_fits (c : Config) (base sub : Nat) (hs : sub < numSubpages c)
    (hb : pageOverruns c base = false) : burstAddr c base sub + c.kSubpageSize ≤ 2 ^ c.addrW := by
  have h1 := burst_in_page c sub hs
  have h2 : ¬ (base + c.kPageSize - 1 > 2 ^ c.addrW - 1) := by simpa [pageOverruns] using hb
  have h3 : 0 < 2 ^ c.addrW := Nat.two_pow_pos _
  unfold burstAddr
  omega

end Sys2Proof.Machine
end

