-- ==== Sys2Proof/Laws/Step.lean ====
section
/-! SUPPORT. What a step can do, said once: the turn it takes, and for each agent what its step answers. -/

namespace Sys2Proof.Machine

/-! ## The turn -/

theorem nextAgent_cons (s : State) (a : Agent) (later : List Agent) (h : s.sched = a :: later) : nextAgent s = a := by
  simp [nextAgent, h]

theorem takeTurn_cons (s : State) (a : Agent) (later : List Agent) (h : s.sched = a :: later) :
    takeTurn s = { s with sched := later } := by
  simp [takeTurn, h]

/-- Taking the turn changes only the schedule and the turn counter. -/
theorem takeTurn_eq (s : State) : takeTurn s = { s with sched := (takeTurn s).sched, turn := (takeTurn s).turn } := by
  unfold takeTurn; split <;> rfl

@[simp] theorem takeTurn_cfg (s : State) : (takeTurn s).cfg = s.cfg := by unfold takeTurn; split <;> rfl
@[simp] theorem takeTurn_phase (s : State) : (takeTurn s).phase = s.phase := by unfold takeTurn; split <;> rfl
@[simp] theorem takeTurn_seq (s : State) : (takeTurn s).seq = s.seq := by unfold takeTurn; split <;> rfl
@[simp] theorem takeTurn_cmdbuf (s : State) : (takeTurn s).cmdbuf = s.cmdbuf := by unfold takeTurn; split <;> rfl
@[simp] theorem takeTurn_inflight (s : State) : (takeTurn s).inflight = s.inflight := by unfold takeTurn; split <;> rfl
@[simp] theorem takeTurn_initialised (s : State) : (takeTurn s).initialised = s.initialised := by unfold takeTurn; split <;> rfl
@[simp] theorem takeTurn_fault (s : State) : (takeTurn s).fault = s.fault := by unfold takeTurn; split <;> rfl
@[simp] theorem takeTurn_reqWord (s : State) : (takeTurn s).reqWord = s.reqWord := by unfold takeTurn; split <;> rfl
@[simp] theorem takeTurn_reqBase (s : State) : (takeTurn s).reqBase = s.reqBase := by unfold takeTurn; split <;> rfl
@[simp] theorem takeTurn_xferBase (s : State) : (takeTurn s).xferBase = s.xferBase := by unfold takeTurn; split <;> rfl
@[simp] theorem takeTurn_clearPage (s : State) : (takeTurn s).clearPage = s.clearPage := by unfold takeTurn; split <;> rfl
@[simp] theorem takeTurn_ret (s : State) : (takeTurn s).ret = s.ret := by unfold takeTurn; split <;> rfl
@[simp] theorem takeTurn_cs (s : State) : (takeTurn s).cs = s.cs := by unfold takeTurn; split <;> rfl
@[simp] theorem takeTurn_dc (s : State) : (takeTurn s).dc = s.dc := by unfold takeTurn; split <;> rfl
@[simp] theorem takeTurn_rst (s : State) : (takeTurn s).rst = s.rst := by unfold takeTurn; split <;> rfl
@[simp] theorem takeTurn_clk (s : State) : (takeTurn s).clk = s.clk := by unfold takeTurn; split <;> rfl
@[simp] theorem takeTurn_pinCfg (s : State) : (takeTurn s).pinCfg = s.pinCfg := by unfold takeTurn; split <;> rfl
@[simp] theorem takeTurn_dmaSrc (s : State) : (takeTurn s).dmaSrc = s.dmaSrc := by unfold takeTurn; split <;> rfl
@[simp] theorem takeTurn_dmaRemaining (s : State) : (takeTurn s).dmaRemaining = s.dmaRemaining := by unfold takeTurn; split <;> rfl
@[simp] theorem takeTurn_dmaActive (s : State) : (takeTurn s).dmaActive = s.dmaActive := by unfold takeTurn; split <;> rfl
@[simp] theorem takeTurn_dmaDone (s : State) : (takeTurn s).dmaDone = s.dmaDone := by unfold takeTurn; split <;> rfl
@[simp] theorem takeTurn_txq (s : State) : (takeTurn s).txq = s.txq := by unfold takeTurn; split <;> rfl
@[simp] theorem takeTurn_mem (s : State) : (takeTurn s).mem = s.mem := by unfold takeTurn; split <;> rfl
@[simp] theorem takeTurn_trace (s : State) : (takeTurn s).trace = s.trace := by unfold takeTurn; split <;> rfl
@[simp] theorem takeTurn_panel (s : State) : (takeTurn s).panel = s.panel := by unfold takeTurn; split <;> rfl
@[simp] theorem takeTurn_prog (s : State) : (takeTurn s).prog = s.prog := by unfold takeTurn; split <;> rfl

/-- A step is the named agent's turn. -/
theorem step_cons (s : State) (a : Agent) (later : List Agent) (h : s.sched = a :: later) :
    step s = agentTurn a { s with sched := later } := by
  simp [step, nextAgent_cons s a later h, takeTurn_cons s a later h]

/-- An agent that may step steps. -/
theorem agentTurn_of_enabled (a : Agent) (s : State) (h : enabled a s = true) : agentTurn a s = agentStep a s := if_pos h

/-- An agent that may not step holds. -/
theorem agentTurn_of_disabled (a : Agent) (s : State) (h : enabled a s = false) : agentTurn a s = .next s := by
  simp [agentTurn, h]

/-- INVERSION of a step: the agent whose turn it is held, or was enabled and took its step. -/
theorem step_next_cases (s t : State) (h : step s = .next t) :
    (enabled (nextAgent s) (takeTurn s) = false ∧ t = takeTurn s) ∨
      (enabled (nextAgent s) (takeTurn s) = true ∧ agentStep (nextAgent s) (takeTurn s) = .next t) := by
  simp only [step, agentTurn] at h
  split at h
  · exact .inr ⟨‹_›, h⟩
  · refine .inl ⟨Bool.eq_false_iff.mpr ‹_›, ?_⟩
    cases h; rfl

/-! ## When an agent may step -/

theorem enabled_host (s : State) : enabled .host s = true ↔ s.seq = .rest ∧ s.prog ≠ [] := by
  simp [enabled]

theorem enabled_engine (s : State) : enabled .engine s = true ↔ s.seq ≠ .rest ∧ s.awaitHolds = true := by
  simp [enabled]

theorem enabled_dma (s : State) : enabled .dma s = true ↔ s.dmaActive = true ∧ 0 < s.dmaRemaining := by
  simp [enabled, State.dmaBusy]

theorem enabled_bus (s : State) : enabled .bus s = true ↔ s.txq ≠ [] := by
  simp [enabled, State.drained, State.busCount]

theorem drained_iff (s : State) : s.drained = true ↔ s.txq = [] := by
  simp [State.drained, State.busCount]

/-! ## Bus -/

/-- A panel byte's instruction leaves on the wire as the byte it encodes to (R220). -/
theorem exec_panelByte (i : Instr) (b : Byte) (s : State) (h : i.panelByte = some b) :
    exec i s = .next (s.transmit b) := by
  cases i <;> simp only [Instr.panelByte, Option.some.injEq, reduceCtorEq] at h <;> subst h <;> rfl

/-- The bus step emits the head byte, whatever it is (R220, R221). -/
theorem busStep_cons (s : State) (b : Byte) (queue : List Byte) (h : s.txq = b :: queue) :
    busStep s = .next (State.transmit b { s with txq := queue }) := by
  simp only [busStep, h]
  split
  · rename_i i hi
    exact exec_panelByte i b _ (panelByte_of_decodePanelByte s.dc b i hi)
  · rfl

/-! ## DMA -/

theorem dmaStep_of_fits (s : State) (h : s.cfg.fitsAddr s.dmaSrc) :
    dmaStep s = .next (dmaMove (Memory.read s.mem s.dmaSrc) s) := by
  simp [dmaStep, State.memRead_eq_some s s.dmaSrc h]

theorem dmaStep_of_beyond (s : State) (h : ¬ s.cfg.fitsAddr s.dmaSrc) : dmaStep s = .fault .dmaBeyondMemory := by
  simp [dmaStep, State.memRead_eq_none s s.dmaSrc h]

/-- All a DMA step that answers a state does (R222). -/
theorem dmaStep_next (s t : State) (h : dmaStep s = .next t) :
    s.cfg.fitsAddr s.dmaSrc ∧ t = dmaMove (Memory.read s.mem s.dmaSrc) s := by
  by_cases hf : s.cfg.fitsAddr s.dmaSrc
  · rw [dmaStep_of_fits s hf] at h; cases h; exact ⟨hf, rfl⟩
  · rw [dmaStep_of_beyond s hf] at h; cases h

/-- What a moved byte changes, as a record. -/
theorem dmaMove_eq (b : Byte) (s : State) :
    dmaMove b s =
      { s with
        trace := s.trace ++ [.dmaRd s.dmaSrc b], txq := s.txq ++ [b], dmaSrc := s.dmaSrc + 1,
        dmaRemaining := s.dmaRemaining - 1,
        dmaDone := if s.dmaRemaining - 1 = 0 then true else s.dmaDone } := rfl

/-! ## Host -/

/-- All a host step that answers a state does: the head action, encodable, is taken (R224). -/
theorem hostStep_next (s t : State) (hp : s.prog ≠ []) (h : hostStep s = .next t) :
    ∃ a more, s.prog = a :: more ∧ a.encodable s.cfg = true ∧ t = hostAct a { s with prog := more } := by
  unfold hostStep at h
  split at h
  · exact absurd ‹_› hp
  · rename_i a more hs
    split at h
    · cases h; exact ⟨a, more, hs, ‹_›, rfl⟩
    · cases h

/-- What a host `WRITE` changes, as a record (R225, R226). -/
theorem hostWrite_eq (a : Nat) (v : Byte) (s : State) :
    hostWrite a v s =
      if s.writeHazard a then
        { s with
          mem := Memory.write s.mem a v, fault := s.fault ||| 0b0000010#7,
          trace := s.trace ++ [.fault .fbWriteInflight (.addr a), .hostWr a v] }
      else { s with mem := Memory.write s.mem a v, trace := s.trace ++ [.hostWr a v] } := by
  unfold hostWrite
  split
  · simp [State.emit, State.memWrite, State.raise, FaultCode.bit, FaultCode.number, Panel.observe]
  · rfl

/-! ## Engine -/

/-- Every accept rule answers a state, and which (R150, R170, R181, R190, R201). -/
theorem exec_request (w : ReqWord) (base : Nat) (i : Instr) (s : State) (h : decodeRequest w base = .ok i) :
    ∃ t, exec i s = .next t := by
  rcases decodeRequest_cases w base i h with rfl | rfl | rfl | rfl | rfl <;>
    simp only [exec, execInit, execClear, execSendPage, execFlush, execAdjustOffset]
  · split <;> exact ⟨_, rfl⟩
  · split
    · exact ⟨_, rfl⟩
    · split <;> exact ⟨_, rfl⟩
  · split
    · exact ⟨_, rfl⟩
    · split
      · exact ⟨_, rfl⟩
      · split
        · exact ⟨_, rfl⟩
        · split <;> exact ⟨_, rfl⟩
  · split <;> exact ⟨_, rfl⟩
  · exact ⟨_, rfl⟩

/-- INVERSION of `ACCEPT` (R169): a fault is raised, and the request dropped or (`SEND_PAGE` in flight) not; or the
request is accepted into its sequence; or it is a no-op. -/
theorem stepAccept_next (s t : State) (h : stepAccept s = .next t) :
    (∃ f info, t = s.dropRequest f info) ∨
    (s.inflight = false ∧ t = { s with phase := .commandPhase, seq := .inPins }) ∨
    (s.initialised = true ∧ s.inflight = false ∧
      t = { s with phase := .commandPhase, clearPage := 0, ret := .host, seq := .clCs }) ∨
    (s.initialised = true ∧ argsInRange s.cfg s.reqPage s.reqSub = true ∧ pageOverruns s.cfg s.reqBase = false ∧
      ((s.inflight = true ∧ t = acceptSendPage (s.raise .sendPageInflight .none)) ∨
        (s.inflight = false ∧ t = acceptSendPage s))) ∨
    (s.inflight = true ∧ t = { s with seq := .flDma }) ∨
    t = { s with seq := .rest } := by
  unfold stepAccept at h
  split at h
  · rename_i i hi
    rcases decodeRequest_cases _ _ i hi with rfl | rfl | rfl | rfl | rfl <;>
      simp only [exec, execInit, execClear, execSendPage, execFlush, execAdjustOffset] at h
    · split at h <;> cases h
      · exact .inl ⟨_, _, rfl⟩
      · exact .inr (.inl ⟨Bool.eq_false_iff.mpr ‹_›, rfl⟩)
    · split at h
      · cases h; exact .inl ⟨_, _, rfl⟩
      · split at h <;> cases h
        · exact .inl ⟨_, _, rfl⟩
        · exact .inr (.inr (.inl ⟨by simp_all, by simp_all, rfl⟩))
    · split at h
      · cases h; exact .inl ⟨_, _, rfl⟩
      · split at h
        · cases h; exact .inl ⟨_, _, rfl⟩
        · split at h
          · cases h; exact .inl ⟨_, _, rfl⟩
          · rename_i h1 h2 h3
            refine .inr (.inr (.inr (.inl ⟨by simpa using h1, by simpa [State.reqPage, State.reqSub] using h2,
              by simpa using h3, ?_⟩)))
            split at h <;> cases h
            · exact .inl ⟨‹_›, rfl⟩
            · exact .inr ⟨Bool.eq_false_iff.mpr ‹_›, rfl⟩
    · split at h <;> cases h
      · exact .inr (.inr (.inr (.inr (.inl ⟨‹_›, rfl⟩))))
      · exact .inr (.inr (.inr (.inr (.inr rfl))))
    · cases h; exact .inr (.inr (.inr (.inr (.inr rfl))))
  · cases h; exact .inl ⟨_, _, rfl⟩

/-- The engine's step always answers a state: no accept rule and no step of a sequence stops (R161). -/
theorem engineStep_next (s : State) : ∃ t, engineStep s = .next t := by
  unfold engineStep
  split
  case h_2 =>
    unfold stepAccept
    split
    · exact exec_request _ _ _ _ ‹_›
    · exact ⟨_, rfl⟩
  all_goals exact ⟨_, rfl⟩

end Sys2Proof.Machine
end

