-- ==== Sys2Proof/Laws/Discipline.lean ====
section
/-! SUPPORT. The discipline of fault-free runs, across the engine's step: each position's condition gives the next one's. -/

namespace Sys2Proof.Machine

/-- No fault code's bit is empty. -/
theorem FaultCode.bit_ne_zero (f : FaultCode) : f.bit ≠ 0#7 := by cases f <;> decide

/-- A raised fault leaves `E.fault` set. -/
theorem State.raise_fault_ne_zero (s : State) (f : FaultCode) (info : FaultInfo) : (s.raise f info).fault ≠ 0#7 := by
  intro h
  have : s.fault ||| f.bit = 0#7 := h
  exact f.bit_ne_zero (BitVec.or_eq_zero_iff.mp this).2

/-- The engine's step, where its `await` holds, carries the discipline on, unless it raises a fault. -/
theorem engineStep_disciplined (s t : State) (hs : s.Sound) (hd : s.Disciplined) (hseq : s.seq ≠ .rest)
    (hawait : s.awaitHolds = true) (hfault : t.fault = 0#7) (h : engineStep s = .next t) : t.Disciplined := by
  obtain ⟨⟩ := hs
  unfold engineStep at h
  split at h
  case h_1 => exact absurd ‹_› hseq
  case h_2 hat =>
    simp only [State.Disciplined, hat, State.Quiet, State.Bursting] at hd
    rcases stepAccept_next s t h with
      ⟨f, info, rfl⟩ | ⟨_, rfl⟩ | ⟨_, _, rfl⟩ | ⟨_, _, _, ⟨_, rfl⟩ | ⟨_, rfl⟩⟩ | ⟨_, rfl⟩ | rfl
    · exact absurd hfault (State.raise_fault_ne_zero s f info)
    · simp_all [State.Disciplined, State.Quiet]
    · simp_all [State.Disciplined, State.Quiet]
    · exact absurd hfault (State.raise_fault_ne_zero s .sendPageInflight .none)
    all_goals simp_all [State.Disciplined, State.Quiet, State.Bursting, acceptSendPage]
  all_goals cases h
  all_goals
    rename_i hat
    simp only [State.Disciplined, hat, State.Quiet, State.Bursting, State.Sending] at hd
    simp only [State.awaitHolds, hat, drained_iff] at hawait
  case h_19 =>
    by_cases hp : s.clearPage + 1 < s.cfg.kNumPages <;>
      simp only [stepClDataWait, State.Disciplined, hp, if_true, if_false] <;> simp_all [State.Quiet]
  case h_22 => cases hr : s.ret <;> simp_all [stepClEnd, State.Disciplined, ClearReturn.target, State.Quiet]
  all_goals
    simp_all [State.Disciplined, State.Quiet, State.Bursting, State.Sending, stepSpClk, stepSpCs, stepSpCmd,
      stepSpCmdWait, stepSpDc, stepSpDma, stepSpFlag, stepFlDma, stepFlDrain, stepFlCs, stepFlFlag, stepFlRst, stepInPins,
      stepInRstA, stepInRstR, stepInClkC, stepInTbl, stepInTblWait, stepInClkN, stepInDone, stepClCs, stepClCmd,
      stepClCmdWait, stepClData, stepClOn, stepClOnWait]

end Sys2Proof.Machine
end

