-- ==== Sys2Proof/Laws/Memory.lean ====
section
/-! SUPPORT. The laws of the cell lists: read after write, and that every memory operation keeps the canonical form. -/

namespace Sys2Proof.Machine

/-- A key below every key of a rising list is listed nowhere in it. -/
theorem Memory.find_eq_none_of_lt (m : Memory) (a : Nat) (h : ∀ x ∈ m, a < x.1) : Memory.find a m = none := by
  induction m with
  | nil => rfl
  | cons c rest ih =>
    have hc : a ≠ c.1 := Nat.ne_of_lt (h c (by simp))
    simp only [Memory.find, hc, if_false]
    exact ih fun x hx => h x (by simp [hx])

/-- The keys after a rising list's head are above it. -/
theorem Memory.head_lt (c : Host.Cell) (rest : Memory) (h : Memory.rising (c :: rest)) : ∀ x ∈ rest, c.1 < x.1 := by
  intro x hx
  have := (List.pairwise_cons.mp h).1
  exact this x.1 (List.mem_map_of_mem hx)

theorem Memory.rising_tail (c : Host.Cell) (rest : Memory) (h : Memory.rising (c :: rest)) : Memory.rising rest :=
  (List.pairwise_cons.mp h).2

@[simp] theorem Memory.find_set_self (m : Memory) (a : Nat) (v : Byte) :
    Memory.find a (Memory.set a v m) = some v := by
  induction m with
  | nil => simp [Memory.set, Memory.find]
  | cons c rest ih =>
    simp only [Memory.set]
    split
    · simp [Memory.find]
    · split
      · simp [Memory.find]
      · rename_i h
        simp [Memory.find, h, ih]

theorem Memory.find_set_of_ne (m : Memory) (a b : Nat) (v : Byte) (h : b ≠ a) :
    Memory.find b (Memory.set a v m) = Memory.find b m := by
  induction m with
  | nil => simp [Memory.set, Memory.find, h]
  | cons c rest ih =>
    simp only [Memory.set]
    split
    · simp [Memory.find, h]
    · split
      · rename_i h2
        have hb : b ≠ c.1 := h2 ▸ h
        simp [Memory.find, h, hb]
      · simp [Memory.find, ih]

theorem Memory.find_erase_self (m : Memory) (a : Nat) (h : Memory.rising m) :
    Memory.find a (Memory.erase a m) = none := by
  induction m with
  | nil => rfl
  | cons c rest ih =>
    simp only [Memory.erase]
    split
    · rename_i hc
      exact Memory.find_eq_none_of_lt rest a (hc ▸ Memory.head_lt c rest h)
    · rename_i hc
      simp [Memory.find, hc, ih (Memory.rising_tail c rest h)]

theorem Memory.find_erase_of_ne (m : Memory) (a b : Nat) (h : b ≠ a) :
    Memory.find b (Memory.erase a m) = Memory.find b m := by
  induction m with
  | nil => rfl
  | cons c rest ih =>
    simp only [Memory.erase]
    split
    · rename_i hc
      have hb : b ≠ c.1 := hc ▸ h
      simp [Memory.find, hb]
    · simp [Memory.find, ih]

/-- READ AFTER WRITE: the written byte at its address, and every other byte as before. -/
theorem Memory.read_write (m : Memory) (a b : Nat) (v : Byte) (h : Memory.rising m) :
    Memory.read (Memory.write m a v) b = if b = a then v else Memory.read m b := by
  unfold Memory.read Memory.write
  by_cases hv : v = Memory.unlisted <;> by_cases hb : b = a
  · subst hb; simp [hv, Memory.find_erase_self m b h]
  · simp [hv, hb, Memory.find_erase_of_ne m a b hb]
  · subst hb; simp [hv]
  · simp [hv, hb, Memory.find_set_of_ne m a b v hb]

/-- A listed cell is the written one or was listed before. -/
theorem Memory.mem_set (m : Memory) (a : Nat) (v : Byte) (x : Host.Cell) (h : x ∈ Memory.set a v m) :
    x = (a, v) ∨ x ∈ m := by
  induction m with
  | nil => simpa [Memory.set] using h
  | cons c rest ih =>
    simp only [Memory.set] at h
    split at h
    · simpa using h
    · split at h
      · rcases List.mem_cons.mp h with h | h
        · exact .inl h
        · exact .inr (by simp [h])
      · rcases List.mem_cons.mp h with h | h
        · exact .inr (by simp [h])
        · exact (ih h).imp id fun h => by simp [h]

theorem Memory.mem_erase (m : Memory) (a : Nat) (x : Host.Cell) (h : x ∈ Memory.erase a m) : x ∈ m := by
  induction m with
  | nil => exact h
  | cons c rest ih =>
    simp only [Memory.erase] at h
    split at h
    · simp [h]
    · rcases List.mem_cons.mp h with h | h
      · simp [h]
      · simp [ih h]

theorem Memory.set_rising (m : Memory) (a : Nat) (v : Byte) (h : Memory.rising m) :
    Memory.rising (Memory.set a v m) := by
  induction m with
  | nil => simp [Memory.set, Memory.rising]
  | cons c rest ih =>
    have hc := Memory.head_lt c rest h
    have hr := Memory.rising_tail c rest h
    simp only [Memory.set]
    split
    · rename_i ha
      refine List.pairwise_cons.mpr ⟨fun k hk => ?_, h⟩
      obtain ⟨x, hx, rfl⟩ := List.mem_map.mp hk
      rcases List.mem_cons.mp hx with rfl | hx
      · exact ha
      · exact Nat.lt_trans ha (hc x hx)
    · split
      · rename_i he
        refine List.pairwise_cons.mpr ⟨fun k hk => ?_, hr⟩
        obtain ⟨x, hx, rfl⟩ := List.mem_map.mp hk
        exact he ▸ hc x hx
      · rename_i h1 h2
        refine List.pairwise_cons.mpr ⟨fun k hk => ?_, ih hr⟩
        obtain ⟨x, hx, rfl⟩ := List.mem_map.mp hk
        rcases Memory.mem_set rest a v x hx with rfl | hx
        · exact Nat.lt_of_le_of_ne (Nat.le_of_not_lt h1) (fun h => h2 h.symm)
        · exact hc x hx

theorem Memory.erase_rising (m : Memory) (a : Nat) (h : Memory.rising m) : Memory.rising (Memory.erase a m) := by
  induction m with
  | nil => exact h
  | cons c rest ih =>
    simp only [Memory.erase]
    split
    · exact Memory.rising_tail c rest h
    · refine List.pairwise_cons.mpr ⟨fun k hk => ?_, ih (Memory.rising_tail c rest h)⟩
      obtain ⟨x, hx, rfl⟩ := List.mem_map.mp hk
      exact Memory.head_lt c rest h x (Memory.mem_erase rest a x hx)

/-- Every memory write keeps the canonical form. -/
theorem Memory.write_wf (m : Memory) (a : Nat) (v : Byte) (h : Memory.wf m) : Memory.wf (Memory.write m a v) := by
  unfold Memory.write
  split
  · exact ⟨Memory.erase_rising m a h.1, fun x hx => h.2 x (Memory.mem_erase m a x hx)⟩
  · rename_i hv
    refine ⟨Memory.set_rising m a v h.1, fun x hx => ?_⟩
    rcases Memory.mem_set m a v x hx with rfl | hx
    · exact hv
    · exact h.2 x hx

/-- A write lists no address but its own and those listed before. -/
theorem Memory.mem_write (m : Memory) (a : Nat) (v : Byte) (x : Host.Cell) (h : x ∈ Memory.write m a v) :
    x.1 = a ∨ x ∈ m := by
  unfold Memory.write at h
  split at h
  · exact .inr (Memory.mem_erase m a x h)
  · exact (Memory.mem_set m a v x h).imp (fun h => by rw [h]) id

/-- Memory with nothing listed, as at reset, is canonical. -/
theorem Memory.nil_wf : Memory.wf [] := by simp [Memory.wf, Memory.rising]

end Sys2Proof.Machine
end

