-- ==== Sys2Proof/Laws/PerInstr.lean ====
section
/-! SUPPORT. Statements about every instruction as syntax, one lemma per constructor. -/

namespace Sys2Proof.Laws.FitsTable

/-- An instruction's encoded form matches the row of opcode_table.json that carries its mnemonic. -/
def Statement (i : Instr) : Prop := ∃ r ∈ opcodeTable, r.mnemonic = i.mnemonic ∧ r.fits (encode i) = true

theorem init : Statement .init := by unfold Statement; decide

theorem clear : Statement .clear := by unfold Statement; decide

theorem sendPage (pg : BitVec 4) (sp : BitVec 8) (base : Nat) : Statement (.sendPage pg sp base) := by
  refine ⟨⟨"SEND_PAGE", none, 0xF000, 0x3000⟩, by decide, rfl, ?_⟩
  have h : ∀ (p : BitVec 4) (s : BitVec 8), sendPageWord p s &&& 0xF000#16 = 0x3000#16 := by
    intro p s
    ext i hi
    simp only [sendPageWord, BitVec.getElem_and, BitVec.getElem_append]
    interval_cases i <;> simp
  have := congrArg BitVec.toNat (h pg sp)
  simpa [Row.fits, encode] using this

theorem flush : Statement .flush := by unfold Statement; decide

theorem adjustOffset : Statement .adjustOffset := by unfold Statement; decide

theorem setColHi (h : BitVec 4) : Statement (.setColHi h) := by
  refine ⟨⟨"SET_COL_HI", some .cmd, 0xF0, 0x10⟩, by decide, rfl, ?_⟩
  revert h; decide

theorem setColLo (l : BitVec 4) : Statement (.setColLo l) := by
  refine ⟨⟨"SET_COL_LO", some .cmd, 0xF0, 0x00⟩, by decide, rfl, ?_⟩
  revert l; decide

theorem setPage (p : BitVec 4) : Statement (.setPage p) := by
  refine ⟨⟨"SET_PAGE", some .cmd, 0xF0, 0xB0⟩, by decide, rfl, ?_⟩
  revert p; decide

theorem displayOn : Statement .displayOn := by unfold Statement; decide

theorem displayOff : Statement .displayOff := by unfold Statement; decide

theorem data (d : Byte) : Statement (.data d) :=
  ⟨⟨"DATA", some .data, 0x00, 0x00⟩, by decide, rfl, by simp [Row.fits, encode]⟩

end Sys2Proof.Laws.FitsTable
end

