-- ==== Sys2Proof/Tests/Slice0.lean ====
section
/-! SUPPORT. Tests. The expected values come from spec/95_test_vectors.md (the vector is named) or from the rule named.
The last part shows, for each statement of Obligations.lean that has hypotheses, states and operands that meet them. -/

namespace Sys2Proof.Tests

open Sys2Proof.Machine

/-! ## Start states -/

/-- The parameters of 95_test_vectors.md, with two table bytes. -/
def cfg : Config := { Config.reference with initTable := [0xD5#8, 0x80#8] }

/-- The smallest configuration: one page of one byte, 16 addresses. -/
def tiny : Config := { Config.reference with kNumPages := 1, kPageSize := 1, kSubpageSize := 1, addrW := 4 }

/-- `S_init`: the fields R160 gives after `INIT`. -/
def ready (c : Config) : State :=
  { State.resetWith c with
    initialised := true, cmdbuf := ⟨0x10#8, 0x00#8, byteOf (0xB0 ||| (c.kNumPages - 1))⟩, clearPage := c.kNumPages,
    ret := .init, clk := .normal, pinCfg := true }

/-- V12: `S_init` with the burst of `SEND_PAGE 0, 0, base` loaded and no byte of it moved. -/
def flying (c : Config) (base : Nat) : State :=
  { ready c with
    phase := .dataPhaseAsync, inflight := true, reqWord := 0x3000#16, reqBase := base, xferBase := base,
    cs := .asserted, dc := .data, clk := .cmd, dmaSrc := base, dmaRemaining := c.kSubpageSize, dmaActive := true }

/-- The host is about to take `a`. -/
def acting (a : Action) (s : State) : State := { s with prog := [a], sched := [.host] }

/-- The engine has the turn at `q`. -/
def engineAt (q : Seq) (s : State) : State := { s with seq := q, sched := [.engine] }

/-- The result is a next state of which `p` holds. -/
def after (r : Result) (p : State → Bool) : Bool :=
  match r with
  | .next t => p t
  | .fault _ => false
  | .refused _ => false

/-! ## Well-formedness: each check refuses an ill-formed term -/

theorem test_wf_reference : Config.reference.wf ∧ cfg.wf ∧ tiny.wf ∧ Config.reference.thisPanel := by decide

theorem test_wf_pages : ¬ { cfg with kNumPages := 0 }.wf ∧ ¬ { cfg with kNumPages := 17 }.wf := by decide

theorem test_wf_page_size : ¬ { cfg with kPageSize := 0 }.wf ∧ ¬ { cfg with kPageSize := 257 }.wf := by decide

theorem test_wf_subpage_size : ¬ { cfg with kSubpageSize := 0 }.wf ∧ ¬ { cfg with kSubpageSize := 3 }.wf := by decide

theorem test_wf_base :
    (Instr.sendPage 0 0 0x100000000).wf cfg = false ∧ (Instr.sendPage 0 0 0xFFFFFFFF).wf cfg = true := by decide

theorem test_encodable_operand_missing : (Action.request 0x3000#16 none).encodable cfg = false := by decide

theorem test_encodable_operand_not_allowed : (Action.request 0x1000#16 (some 0)).encodable cfg = false := by decide

theorem test_encodable_addresses :
    (Action.request 0x3000#16 (some 0x100000000)).encodable cfg = false ∧
    (Action.write 0x100000000 0).encodable cfg = false := by decide

theorem test_decode_operand_mismatch :
    decode (.request 0x3000#16 none) = .error .operandMismatch ∧
    decode (.request 0x1000#16 (some 0)) = .error .operandMismatch := by decide

/-! ## Decoding: every constructor, from words written out bit by bit (R101 to R105, R111; 95 section 2) -/

theorem test_decode_init : decodeRequest 0b0001000000000000#16 0 = .ok .init := by decide
theorem test_decode_clear : decodeRequest 0b0010000000000000#16 0 = .ok .clear := by decide
theorem test_decode_sendPage : decodeRequest 0b0011011100000001#16 0x1000 = .ok (.sendPage 7 1 0x1000) := by decide
theorem test_decode_flush : decodeRequest 0b0100000000000000#16 0 = .ok .flush := by decide
theorem test_decode_adjustOffset : decodeRequest 0b0101000000000000#16 0 = .ok .adjustOffset := by decide
theorem test_decode_setColHi : decodePanelByte .cmd 0b00010111#8 = .ok (.setColHi 7) := by decide
theorem test_decode_setColLo : decodePanelByte .cmd 0b00001111#8 = .ok (.setColLo 15) := by decide
theorem test_decode_setPage : decodePanelByte .cmd 0b10110111#8 = .ok (.setPage 7) := by decide
theorem test_decode_displayOn : decodePanelByte .cmd 0b10101111#8 = .ok .displayOn := by decide
theorem test_decode_displayOff : decodePanelByte .cmd 0b10101110#8 = .ok .displayOff := by decide
theorem test_decode_data : decodePanelByte .data 0b10101111#8 = .ok (.data 0xAF) := by decide

/-- 95 section 2.1: the words that decode to nothing. -/
theorem test_decode_illegal :
    [0x0000#16, 0x1001#16, 0x1800#16, 0x20FF#16, 0x4010#16, 0x5001#16, 0x6000#16, 0xF000#16, 0xFFFF#16].all
      (fun w => (decodeRequest w 0).toOption.isNone) = true := by decide

/-- R107: a command byte outside R101 to R104 is opaque. -/
theorem test_decode_opaque : decodePanelByte .cmd 0xD5#8 = .error .opaqueCommand := by decide

theorem test_decodeTableWord :
    decodeTableWord 16 0x3701 = some (.sendPage 7 1 0) ∧ decodeTableWord 8 0xB7 = some (.setPage 7) ∧
    decodeTableWord 8 0xD5 = some (.data 0xD5) ∧ decodeTableWord 16 0x6000 = none := by decide

/-! ## The addressing command encoder (95 section 3) -/

theorem test_encodeAddr :
    (encodeAddr 3 64).bytes = [0x14#8, 0x00#8, 0xB3#8] ∧ (encodeAddr 5 120).bytes = [0x17#8, 0x08#8, 0xB5#8] ∧
    (encodeAddr 0 127).bytes = [0x17#8, 0x0F#8, 0xB0#8] := by decide

/-- R109. -/
theorem test_decode_addressing :
    CmdBuf.column ⟨0x14#8, 0x00#8, 0xB3#8⟩ = 64 ∧ CmdBuf.page ⟨0x14#8, 0x00#8, 0xB3#8⟩ = 3 ∧
    CmdBuf.column ⟨0x17#8, 0x0F#8, 0xB0#8⟩ = 127 := by decide

/-! ## Requests at ACCEPT (95 section 4) -/

/-- V23. -/
theorem test_init_at_reset :
    after (exec .init State.reset) (fun t => t.phase == .commandPhase && t.seq == .inPins && t.fault == 0) = true := by
  decide

/-- V14. -/
theorem test_init_busy :
    after (exec .init (flying cfg 0x1000)) (fun t => t.fault == 0x20 && t.trace == [.fault .busy .none] && t.inflight)
      = true := by decide

/-- V4. -/
theorem test_clear_not_initialised :
    after (exec .clear State.reset) (fun t => t.fault == 0x10 && t.trace == [.fault .notInit .none] && t.seq == .rest)
      = true := by decide

/-- V13. -/
theorem test_clear_busy :
    after (exec .clear (flying cfg 0x1000)) (fun t => t.fault == 0x20 && t.trace == [.fault .busy .none]) = true := by
  decide

/-- V8 and V9: the last base a page fits at, and the first it does not. -/
theorem test_sendPage_address_edge :
    after (exec (.sendPage 0 1 0xFFFFFF80) (ready cfg)) (fun t => t.fault == 0 && t.seq == .spClk) = true ∧
    after (exec (.sendPage 0 0 0xFFFFFF81) (ready cfg))
      (fun t => t.fault == 0x08 && t.trace == [.fault .addrRange (.base 0xFFFFFF81)] && t.seq == .rest) = true := by
  decide

/-- V10: the first failing check decides. -/
theorem test_sendPage_first_check :
    after (exec (.sendPage 8 0 0xFFFFFFFF) (ready cfg))
      (fun t => t.fault == 0x04 && t.trace == [.fault .argRange (.args 8 0)]) = true := by decide

/-- V1. -/
theorem test_flush_at_reset : after (exec .flush State.reset) (fun t => t == State.reset) = true := by decide

/-- V19, R181: with a burst in flight the engine waits for the DMA. -/
theorem test_flush_in_flight : after (exec .flush (flying cfg 0x1000)) (fun t => t.seq == .flDma && t.inflight) = true := by
  decide

/-- V2. -/
theorem test_adjustOffset_at_reset : after (exec .adjustOffset State.reset) (fun t => t == State.reset) = true := by
  decide

/-- V5. -/
theorem test_illegal_word :
    after (step (engineAt .accept { State.reset with reqWord := 0x6000#16 }))
      (fun t => t.fault == 0x40 && t.trace == [.fault .illegalReq (.word 0x6000#16)] && t.seq == .rest) = true := by
  decide

/-! ## Panel bytes (95 section 5; R141 to R144) -/

/-- A panel selected, in command mode, with `CR = 0x3C`. -/
def selected : State :=
  { ready cfg with cs := .asserted, dc := .cmd, panel := { Panel.powerOn with column := 0x3C#8 } }

theorem test_setColHi :
    after (exec (.setColHi 4) selected)
      (fun t => t.trace == [.tx .asserted .cmd 0x14#8] && t.panel.column == 0x4C#8) = true := by decide

theorem test_setColLo :
    after (exec (.setColLo 5) selected)
      (fun t => t.trace == [.tx .asserted .cmd 0x05#8] && t.panel.column == 0x35#8) = true := by decide

theorem test_setPage :
    after (exec (.setPage 3) selected)
      (fun t => t.trace == [.tx .asserted .cmd 0xB3#8] && t.panel.page == 3#3 && t.panel.column == 0x3C#8) = true := by
  decide

theorem test_displayOn :
    after (exec .displayOn selected) (fun t => t.trace == [.tx .asserted .cmd 0xAF#8] && t.panel.on) = true := by decide

theorem test_displayOff :
    after (exec .displayOff { selected with panel := { selected.panel with on := true } })
      (fun t => t.trace == [.tx .asserted .cmd 0xAE#8] && !t.panel.on) = true := by decide

theorem test_data :
    after (exec (.data 0xAF) { selected with dc := .data })
      (fun t => t.trace == [.tx .asserted .data 0xAF#8] && t.panel.pixels 0 0x3C == 0xAF#8 && t.panel.column == 0x3D#8)
      = true := by decide

/-- T3, R55: a byte that leaves with chip-select Deasserted does not reach the panel. -/
theorem test_bus_deselected :
    after (step { ready cfg with txq := [0x42#8], sched := [.bus] })
      (fun t => t.trace == [.tx .deasserted .cmd 0x42#8] && panelStream t.trace == [] && t.txq == []) = true := by decide

/-! ## DMA and host (95 sections 4 and 5) -/

/-- T4. -/
theorem test_dma_last_byte :
    after (step
      { flying cfg 0x1000 with dmaSrc := 0x1040, dmaRemaining := 1, mem := [(0x1040, 0x7E#8)], sched := [.dma] })
      (fun t => t.trace == [.dmaRd 0x1040 0x7E#8] && t.txq == [0x7E#8] && t.dmaRemaining == 0 && t.dmaDone) = true := by
  decide

/-- V15 and V16: both ends of the page in flight. -/
theorem test_write_hazard :
    after (step (acting (.write 0x1010 0x55) (flying cfg 0x1000)))
      (fun t => t.fault == 0x02 && t.trace == [.fault .fbWriteInflight (.addr 0x1010), .hostWr 0x1010 0x55#8] &&
        Memory.read t.mem 0x1010 == 0x55#8) = true ∧
    after (step (acting (.write 0x107F 0x55) (flying cfg 0x1000))) (fun t => t.fault == 0x02) = true := by decide

/-- V17 and V18: the bytes next to the page. -/
theorem test_write_beside :
    after (step (acting (.write 0x1080 0x55) (flying cfg 0x1000)))
      (fun t => t.fault == 0 && t.trace == [.hostWr 0x1080 0x55#8]) = true ∧
    after (step (acting (.write 0x0FFF 0x55) (flying cfg 0x1000))) (fun t => t.fault == 0) = true := by decide

/-- T6. -/
theorem test_readStatus_at_reset :
    after (step (acting .readStatus State.reset)) (fun t => t.trace == [.status 0x0010#16]) = true := by decide

/-- 95 section 4.1. -/
theorem test_status_values :
    (ready cfg).status = 0x0018#16 ∧ (flying cfg 0x1000).status = 0x001E#16 ∧
    { flying cfg 0x1000 with dmaDone := true }.status = 0x003E#16 := by decide

/-! ## Assembler (R116 to R118; 95 P2, P6) -/

theorem test_assemble_text :
    assembleText cfg "SEND_PAGE 3, 1, 0x1000 ; a comment\nFLUSH" =
      some [.request 0x3301#16 (some 0x1000), .request 0x4000#16 none] := by decide

theorem test_assemble_refuses : assembleText cfg "WRITE 0x100000000, 1" = none := by decide

theorem test_assemble_frame :
    (assemble cfg (.sendFrame 0x4000)).map List.length = some 32 ∧
    ((assemble cfg (.sendFrame 0x4000)).map fun p => p[30]?) = some (some (.request 0x3701#16 (some 0x4380))) := by decide

/-! ## The fixed names the host reads -/

theorem test_placed_words_run_first :
    after (step (State.reset.withFetchWord 16 0x1000)) (fun t => t.seq == .inPins) = true ∧
    after (step (State.reset.withFetchWord 48 0x10003000)) (fun t => t.fault == 0x10 && t.reqBase == 0x1000) = true ∧
    after (step (State.reset.withFetchWord 8 0xB3)) (fun t => t.trace == [.tx .deasserted .cmd 0xB3#8]) = true := by
  decide

theorem test_reset_memory : Memory.wf State.reset.mem := by decide


/-! ## Witnesses: states and operands that meet the hypotheses of each statement of Obligations.lean -/

/-! ### Encodings -/

theorem test_witness_EncodeOfDecodeIsTheForm :
    decode (.request 0x3FFF#16 (some 0)) = .ok (.sendPage 15 255 0) ∧ decode (.panel .cmd 0xBF#8) = .ok (.setPage 15) := by
  decide

theorem test_witness_DecodersAgreeWithTheOpcodeTable :
    decode (.panel .data 0xFF#8) = .ok (.data 0xFF) ∧ decode (.panel .cmd 0x00#8) = .ok (.setColLo 0) := by decide

/-- Both ways a word is ILLEGAL, at the ends of their ranges, and the engine at `ACCEPT` with one. -/
theorem test_witness_IllegalWordsAreTheReservedOnesAndAreDropped :
    decodeRequest 0x0FFF#16 0 = .error .reservedOp ∧ decodeRequest 0x6000#16 0 = .error .reservedOp ∧
    decodeRequest 0x1001#16 0 = .error .reservedBits ∧ decodeRequest 0x5FFF#16 0 = .error .reservedBits ∧
    ∃ s : State, ∃ later r, s.sched = .engine :: later ∧ s.seq = .accept ∧ decodeRequest s.reqWord s.reqBase = .error r :=
  ⟨by decide, by decide, by decide, by decide, engineAt .accept { State.reset with reqWord := 0x6000#16 }, [],
    .reservedOp, by decide, by decide, by decide⟩

/-- The largest page and column of each clause, and two equal encodings. -/
theorem test_witness_AddressingCommandIsInvertible :
    encodeAddr 15 255 = ⟨0x1F#8, 0x0F#8, 0xBF#8⟩ ∧ encodeAddr 7 127 = ⟨0x17#8, 0x0F#8, 0xB7#8⟩ := by decide

/-! ### Instructions -/

theorem test_witness_InitAtAccept : (flying cfg 0).inflight = true ∧ (ready cfg).inflight = false := by decide

theorem test_witness_ClearAtAccept :
    State.reset.initialised = false ∧ (flying cfg 0).initialised = true ∧ (flying cfg 0).inflight = true ∧
    (ready cfg).initialised = true ∧ (ready cfg).inflight = false := by decide

/-- The clauses in order, at the boundary of each range: the first page and sub-page past the panel, the first base a page
does not fit at, and the last arguments and base that pass. -/
theorem test_witness_SendPageAtAccept :
    State.reset.initialised = false ∧ (ready cfg).initialised = true ∧
    cfg.kNumPages ≤ (8#4).toNat ∧ cfg.kPageSize / cfg.kSubpageSize ≤ (2#8).toNat ∧
    (7#4).toNat < cfg.kNumPages ∧ (1#8).toNat < cfg.kPageSize / cfg.kSubpageSize ∧
    2 ^ cfg.addrW - 1 < 0xFFFFFF81 + cfg.kPageSize - 1 ∧ 0xFFFFFF80 + cfg.kPageSize - 1 ≤ 2 ^ cfg.addrW - 1 ∧
    (flying cfg 0).initialised = true ∧ (flying cfg 0).inflight = true ∧ (ready cfg).inflight = false := by decide

theorem test_witness_FlushAtAccept : (ready cfg).inflight = false ∧ (flying cfg 0).inflight = true := by decide

/-- The word itself, and the first and last other words of its `op`. -/
theorem test_witness_AdjustOffsetOnlyReturns :
    after (step (engineAt .accept { ready cfg with reqWord := 0x5000#16 })) (fun t => t.fault == 0) = true ∧
    (0x5001#16).toNat / 4096 = 5 ∧ (0x5FFF#16).toNat / 4096 = 5 ∧
    after (step (engineAt .accept { ready cfg with reqWord := 0x5001#16 })) (fun t => t.fault == 0x40) = true := by decide

theorem test_witness_CommandBytesSetThePanelRegisters :
    selected.cs = .asserted ∧ selected.dc = .cmd ∧ (7#4).toNat < 8 ∧
    after (exec (.setPage 7) selected) (fun t => t.panel.page == 7#3) = true ∧
    after (exec (.setColHi 15) selected) (fun t => t.panel.column == 0xFC#8) = true ∧
    after (exec (.setColLo 0) selected) (fun t => t.panel.column == 0x30#8) = true ∧
    after (exec .displayOn selected) (fun t => t.panel.on) = true ∧
    after (exec .displayOff selected) (fun t => !t.panel.on) = true := by decide

/-- The last column of the panel's RAM, and a cell beside it. -/
theorem test_witness_DataBytesFillThePanelRam :
    let s : State := { selected with dc := .data, panel := { Panel.powerOn with column := 131#8 } }
    s.cs = .asserted ∧ s.dc = .data ∧ s.panel.column.toNat < 132 ∧
    after (exec (.data 0xFF) s) (fun t => t.panel.pixels 0 131 == 0xFF#8 && t.panel.column == 132#8) = true ∧
    (0, 130) ≠ (s.panel.page.toNat, s.panel.column.toNat) := by decide

theorem test_witness_RequestsFrame :
    ∀ i ∈ [Instr.init, .clear, .sendPage 7 1 0xFFFFFF80, .flush, .adjustOffset],
      after (exec i (ready cfg)) (fun _ => true) = true := by decide

theorem test_witness_PanelBytesFrame :
    ∀ i ∈ [Instr.setColHi 15, .setColLo 0, .setPage 7, .displayOn, .displayOff, .data 0xFF],
      after (exec i selected) (fun _ => true) = true := by decide

/-! ### Steps of the agents -/

theorem test_witness_StepRunsTheLatchedRequest :
    let s := engineAt .accept { ready cfg with reqWord := 0x3701#16, reqBase := 0x1000 }
    s.sched = [.engine] ∧ s.seq = .accept ∧ decodeRequest s.reqWord s.reqBase = .ok (.sendPage 7 1 0x1000) := by decide

theorem test_witness_StepRunsTheQueuedPanelByte :
    let s : State := { selected with txq := [0x14#8, 0x00#8], sched := [.bus] }
    s.sched = [.bus] ∧ s.txq = [0x14#8, 0x00#8] ∧ decodePanelByte s.dc 0x14#8 = .ok (.setColHi 4) := by decide

/-- An empty queue, and an opaque command byte at the head of one. -/
theorem test_witness_BusEmitsTheHeadByte :
    { selected with sched := [.bus] }.txq = [] ∧
    after (step { selected with txq := [0xD5#8], sched := [.bus] })
      (fun t => t.trace == [.tx .asserted .cmd 0xD5#8] && t.txq == []) = true := by decide

theorem test_witness_PlacedInstructionRunsNext :
    decodeTableWord 16 0x1000 = some .init ∧ decodeTableWord 48 0x10003000 = some (.sendPage 0 0 0x1000) ∧
    decodeTableWord 8 0xAF = some .displayOn ∧ decodeTableWord 8 0xFF = some (.data 0xFF) := by decide

theorem test_witness_InitSequencerSteps :
    ([.inPins, .inRstA, .inRstR, .inClkC, .inTbl, .inTblWait, .inClkN, .inDone].all fun q =>
      let s := engineAt q { ready cfg with phase := .commandPhase }
      s.sched == [.engine] && s.seq == q && s.txq == [] && { s with txq := [0xD5#8] }.txq != []) = true := by decide

theorem test_witness_SendPageSteps :
    ([.spClk, .spCs, .spCmd, .spCmdWait, .spDc, .spDma, .spFlag].all fun q =>
      let s := engineAt q { ready cfg with reqWord := 0x3701#16, reqBase := 0xFFFFFF80 }
      s.sched == [.engine] && s.seq == q && s.txq == [] && { s with txq := [0x17#8] }.txq != []) = true ∧
    (0x3701#16).toNat / 256 % 16 = 7 ∧ (0x3701#16).toNat % 256 * cfg.kSubpageSize = 64 := by decide

theorem test_witness_FlushSteps :
    ([.flDma, .flDrain, .flCs, .flFlag, .flRst].all fun q =>
      let s := engineAt q (flying cfg 0)
      s.sched == [.engine] && s.seq == q && s.dmaDone == false && { s with dmaDone := true }.dmaDone &&
        s.txq == [] && { s with txq := [0x00#8] }.txq != []) = true := by decide

/-- The last page and the one before it, and both returns. -/
theorem test_witness_ClearSteps :
    ([.clCs, .clCmd, .clCmdWait, .clData, .clDataWait, .clOn, .clOnWait, .clEnd].all fun q =>
      let s := engineAt q { ready cfg with clearPage := 7 }
      s.sched == [.engine] && s.seq == q && s.txq == [] && { s with txq := [0x00#8] }.txq != [] &&
        decide (cfg.kNumPages ≤ s.clearPage + 1) && decide ({ s with clearPage := 6 }.clearPage + 1 < cfg.kNumPages) &&
        s.ret == .init && { s with ret := .host }.ret == .host) = true := by decide

/-- A descriptor with nothing left, the last address of memory, and the first past it. -/
theorem test_witness_DmaMovesOneByte :
    (ready tiny).dmaActive = false ∧ { flying tiny 15 with dmaRemaining := 0 }.dmaRemaining = 0 ∧
    (flying tiny 15).dmaActive = true ∧ 0 < (flying tiny 15).dmaRemaining ∧
    (flying tiny 15).dmaSrc < 2 ^ tiny.addrW ∧ 2 ^ tiny.addrW ≤ { flying tiny 15 with dmaSrc := 16 }.dmaSrc := by decide

/-- The engine at `q` of a `SEND_PAGE` for the last byte of memory. -/
def sending (q : Seq) : State :=
  engineAt q
    { ready tiny with
      phase := .commandPhase, reqWord := 0x3000#16, reqBase := 15, cs := .asserted, dc := .data, clk := .cmd }

theorem sound_sending : (sending .spDma).Sound := by constructor <;> decide

theorem test_witness_BurstReadsItsSubpageInOrder :
    (sending .spDma).Sound ∧ (sending .spDma).seq = .spDma := ⟨sound_sending, by decide⟩

theorem test_witness_HostHandsOverARequest :
    (engineAt .spClk (ready tiny)).seq ≠ .rest ∧ (ready tiny).prog = [] ∧ (ready tiny).seq = .rest ∧
    (0x3FFF#16).toNat / 4096 = 3 ∧ 15 < 2 ^ tiny.addrW ∧ (0x2FFF#16).toNat / 4096 ≠ 3 ∧ (0x4000#16).toNat / 4096 ≠ 3 ∧
    (Action.write 16 0).encodable tiny = false ∧ (Action.request 0x3000#16 none).encodable tiny = false := by decide

theorem sound_write_inside : (acting (.write 15 0x55#8) (flying tiny 15)).Sound := by constructor <;> decide

theorem sound_write_outside : (acting (.write 14 0x55#8) (flying tiny 15)).Sound := by constructor <;> decide

/-- A write of the byte in flight, and of the byte before it. -/
theorem test_witness_HostWriteChangesOneByte :
    let s := acting (.write 15 0x55#8) (flying tiny 15)
    let u := acting (.write 14 0x55#8) (flying tiny 15)
    s.Sound ∧ u.Sound ∧ s.sched = [.host] ∧ s.seq = .rest ∧ s.prog = [.write 15 0x55#8] ∧
    (s.inflight = true ∧ s.xferBase ≤ 15 ∧ 15 < s.xferBase + s.cfg.kPageSize) ∧
    ¬(u.inflight = true ∧ u.xferBase ≤ 14 ∧ 14 < u.xferBase + u.cfg.kPageSize) :=
  ⟨sound_write_inside, sound_write_outside, by decide, by decide, by decide, by decide, by decide⟩

theorem test_witness_ReadStatusOnlyRecords :
    let s := acting .readStatus (flying cfg 0)
    s.sched = [.host] ∧ s.seq = .rest ∧ s.prog = [.readStatus] := by decide

theorem test_witness_AgentsHoldUnlessEnabled :
    ∀ a ∈ [Agent.host, .engine, .dma, .bus], enabled a { ready cfg with sched := [] } = false := by decide

/-! ### Views and reset -/

theorem test_witness_StatusViewsHaveTheirFields :
    (ready cfg).phase = .idle ∧ (sending .spDma).phase = .commandPhase ∧ (flying cfg 0).phase = .dataPhaseAsync := by
  decide

theorem test_witness_ResetFixesItsFields :
    { State.resetWith tiny with mem := [(15, 0x3C#8)], prog := [.readStatus], sched := [.host] } =
      State.launch tiny [(15, 0x3C#8)] [.readStatus] [.host] := by decide

theorem test_witness_RequestsAtReset : decodeRequest 0x6000#16 0 = .error .reservedOp := by decide

/-! ### Invariants -/

theorem test_witness_LaunchStatesAreOrderly :
    tiny.wf ∧ Memory.wf [(15, 0x01#8)] ∧ (∀ x ∈ ([(15, 0x01#8)] : Memory), x.1 < 2 ^ tiny.addrW) ∧
    ∀ a ∈ [Action.request 0x3000#16 (some 15), .write 15 0x02#8, .readStatus], a.encodable tiny = true := by decide

/-- A step of a sound state that loads the DMA. -/
theorem test_witness_StepKeepsSound :
    (sending .spDma).Sound ∧ after (step (sending .spDma)) (fun t => t.dmaActive && t.dmaSrc == 15) = true :=
  ⟨sound_sending, by decide⟩

theorem orderly_sending : (sending .spDma).Orderly :=
  ⟨sound_sending, fun _ => show State.Quiet _ ∧ _ ∧ _ ∧ _ by decide⟩

theorem test_witness_StepKeepsOrderly :
    (sending .spDma).Orderly ∧ after (step (sending .spDma)) (fun t => t.seq == .spFlag) = true :=
  ⟨orderly_sending, by decide⟩

theorem test_witness_SoundStatesAlwaysStep : (sending .spDma).Sound := sound_sending

/-- A burst in flight, orderly at `REST`. -/
theorem orderly_flying : (flying tiny 15).Orderly :=
  ⟨by constructor <;> decide, fun _ => show _ ∨ State.Bursting _ from .inr (by decide)⟩

/-- The burst has been read, with `queue` still to leave, and the engine is at `q`. -/
def landing (q : Seq) (queue : List Byte) : State :=
  engineAt q { flying tiny 15 with dmaSrc := 16, dmaRemaining := 0, dmaDone := true, txq := queue }

/-- Between `FL_CS` and `FL_FLAG`. -/
def released : State := { landing .flFlag [] with cs := .deasserted }

theorem orderly_released : released.Orderly :=
  ⟨by constructor <;> decide, fun _ => show _ ∧ _ ∧ _ ∧ _ ∧ _ ∧ _ by decide⟩

/-- In flight, at `FL_FLAG`, at `SP_DMA`, and quiet at `REST`. -/
theorem test_witness_FaultFreeStatesMeetTheListedInvariants :
    (flying tiny 15).Orderly ∧ (flying tiny 15).fault = 0#7 ∧ (flying tiny 15).inflight = true ∧
    (flying tiny 15).phase = .dataPhaseAsync ∧ (flying tiny 15).seq = .rest ∧
    released.Orderly ∧ released.fault = 0#7 ∧ released.seq = .flFlag ∧ released.inflight = true ∧
    (sending .spDma).Orderly ∧ (sending .spDma).fault = 0#7 ∧ (sending .spDma).seq = .spDma ∧
    (ready tiny).Orderly ∧ (ready tiny).fault = 0#7 ∧ (ready tiny).inflight = false :=
  ⟨orderly_flying, by decide, by decide, by decide, by decide, orderly_released, by decide, by decide, by decide,
    orderly_sending, by decide, by decide,
    ⟨by constructor <;> decide, fun _ => show (State.Quiet _ ∧ _) ∨ _ from .inl (by decide)⟩, by decide, by decide⟩

theorem test_witness_ChipSelectDropsBeforeTheFlag :
    let s : State := { landing .flCs [] with sched := [.engine, .engine] }
    s.Orderly ∧ s.fault = 0#7 ∧ s.seq = .flCs ∧ s.sched = [.engine, .engine] ∧
    after (step s) (fun t => t.seq == .flFlag && t.inflight && t.dc == .data && t.cs == .deasserted) = true :=
  ⟨⟨by constructor <;> decide, fun _ => show State.Bursting _ ∧ _ ∧ _ by decide⟩, by decide, by decide, by decide, by decide⟩

theorem test_witness_QueuedBytesKeepTheirPins :
    (landing .flDma [0x55#8]).Orderly ∧ (landing .flDma [0x55#8]).fault = 0#7 ∧ (landing .flDma [0x55#8]).txq ≠ [] ∧
    nextAgent (landing .flDma [0x55#8]) = .engine ∧
    after (step (landing .flDma [0x55#8])) (fun t => t.fault == 0 && t.seq == .flDrain) = true :=
  ⟨⟨by constructor <;> decide, fun _ => show State.Bursting _ by decide⟩, by decide, by decide, by decide, by decide⟩

/-- The engine at `ACCEPT` with an illegal word in a state with a fault, `E.initialised` and `P.cfg` set. -/
theorem test_witness_StickyBitsStaySet :
    after (step (engineAt .accept { ready cfg with reqWord := 0x6000#16, fault := 0x01#7 }))
      (fun t => t.fault == 0x41 && t.initialised && t.pinCfg) = true := by decide

theorem test_witness_TraceOnlyGrows :
    after (step (engineAt .spClk { ready cfg with trace := [.pinCfg] })) (fun t => t.trace == [.pinCfg, .clk .cmd]) = true := by
  decide

theorem test_witness_InflightHasTwoWriters :
    after (step (engineAt .spFlag (ready cfg))) (fun t => t.inflight) = true ∧ (ready cfg).inflight = false ∧
    after (step (landing .flFlag [])) (fun t => !t.inflight) = true ∧ (landing .flFlag []).inflight = true := by decide

theorem test_witness_CommandBufferHasTwoWriters :
    after (step (engineAt .spCmd { ready cfg with reqWord := 0x3701#16 })) (fun t => t.cmdbuf != (ready cfg).cmdbuf) = true ∧
    after (step (engineAt .clCmd { ready cfg with clearPage := 0 })) (fun t => t.cmdbuf != (ready cfg).cmdbuf) = true := by
  decide

theorem test_witness_OnlyAcceptAndWriteRaise :
    after (step (engineAt .accept State.reset)) (fun t => (t.trace.filter Event.isFault).length == 1) = true ∧
    after (step (acting (.write 15 0x55#8) (flying tiny 15))) (fun t => (t.trace.filter Event.isFault).length == 1) = true := by
  decide

theorem test_witness_OnlyTheHostWritesMemory :
    Memory.wf (flying tiny 15).mem ∧ nextAgent (sending .spDma) ≠ .host ∧
    after (step (acting (.write 15 0x55#8) (flying tiny 15)))
      (fun t => Memory.read t.mem 15 != Memory.read (flying tiny 15).mem 15) = true := by decide

theorem test_witness_DmaRegistersHaveThreeWriters :
    after (step { flying tiny 15 with sched := [.dma] }) (fun t => t.dmaSrc == 16) = true ∧
    after (step (sending .spDma)) (fun t => t.dmaActive) = true ∧
    after (step (landing .flRst [])) (fun t => !t.dmaActive) = true := by decide

/-- A step that writes each pin. -/
theorem test_witness_PinsHaveTheirWriters :
    after (step (engineAt .spCs (ready cfg))) (fun t => t.cs == .asserted) = true ∧ (ready cfg).cs = .deasserted ∧
    after (step (engineAt .spDc (ready cfg))) (fun t => t.dc == .data) = true ∧ (ready cfg).dc = .cmd ∧
    after (step (engineAt .inRstR { ready cfg with rst := .asserted })) (fun t => t.rst == .released) = true ∧
    after (step (engineAt .spClk (ready cfg))) (fun t => t.clk == .cmd) = true ∧ (ready cfg).clk = .normal ∧
    after (step (engineAt .inPins State.reset)) (fun t => t.pinCfg) = true ∧ State.reset.pinCfg = false := by decide

theorem test_witness_LatchesHaveTheirWriters :
    after (step (acting (.request 0x3000#16 (some 15)) (ready tiny))) (fun t => t.reqBase == 15) = true ∧
    after (step (engineAt .spFlag { ready tiny with reqBase := 15 })) (fun t => t.xferBase == 15) = true ∧
    after (step (engineAt .clDataWait { ready cfg with clearPage := 7 })) (fun t => t.clearPage == 8) = true ∧
    after (step (engineAt .accept { ready cfg with reqWord := 0x2000#16 })) (fun t => t.ret == .host && t.clearPage == 0)
      = true ∧
    after (step (engineAt .inClkN State.reset)) (fun t => t.ret == .init) = true := by decide

theorem test_witness_QueueIsFirstInFirstOut :
    nextAgent { flying tiny 15 with sched := [.dma] } ≠ .bus ∧
    after (step { flying tiny 15 with txq := [0x01#8], sched := [.dma] }) (fun t => t.txq == [0x01#8, 0x00#8]) = true ∧
    nextAgent { flying tiny 15 with txq := [0x01#8], sched := [.bus] } = .bus ∧
    after (step { flying tiny 15 with txq := [0x01#8, 0x02#8], sched := [.bus] }) (fun t => t.txq == [0x02#8]) = true := by
  decide

/-- A next state, a fault and a refusal. -/
theorem test_witness_PanelIsNeverRead :
    after (step (sending .spDma)) (fun _ => true) = true ∧
    (match step { flying tiny 15 with dmaSrc := 16, sched := [.dma] } with
      | .fault .dmaBeyondMemory => true
      | _ => false) = true ∧
    (match step (acting (.write 16 0) (ready tiny)) with
      | .refused .unencodableAction => true
      | _ => false) = true := by decide

/-- As for `PanelIsNeverRead`, and the one event that shows `E.fault`. -/
theorem test_witness_FaultBitsChangeNoBehaviour :
    after (step (acting .readStatus { ready cfg with fault := 0x50#7 })) (fun t => t.trace == [.status 0x5018#16]) = true ∧
    after (step (acting .readStatus (ready cfg))) (fun t => t.trace == [.status 0x0018#16]) = true := by decide

theorem test_witness_FinalStatesRest : (ready cfg).Final := by decide

/-! ### Whole operations -/

/-- Fair rounds, `n` of them. -/
def rounds (n : Nat) : List (List Agent) := List.replicate n [.engine, .dma, .bus]

/-- `INIT` in the smallest configuration: its trace, computed. -/
theorem test_witness_InitIsTheSameInEveryInterleaving :
    let s : State := { State.resetWith tiny with seq := .accept, reqWord := 0x1000#16 }
    s.cfg.wf ∧ s.Quiet ∧ s.prog = [] ∧ s.seq = .accept ∧ s.reqWord = 0x1000#16 ∧
    after (runUnder (rounds 21).flatten s) (fun t => t.seq == .rest && t.trace == initTrace tiny) = true := by decide

theorem test_witness_ClearIsTheSameInEveryInterleaving :
    let s : State := { ready tiny with seq := .accept, reqWord := 0x2000#16 }
    s.cfg.wf ∧ s.Quiet ∧ s.prog = [] ∧ s.initialised = true ∧ s.seq = .accept ∧ s.reqWord = 0x2000#16 ∧
    after (runUnder (rounds 14).flatten s) (fun t => t.seq == .rest && t.trace == clearTrace tiny) = true := by decide

/-- `SEND_PAGE 0, 0, 15`, a write of the byte before the page, and `FLUSH`. -/
def buffered : State :=
  { ready tiny with
    mem := [(15, 0x3C#8)]
    prog := [.request 0x3000#16 (some 15), .write 14 0x55#8, .request 0x4000#16 none] }

theorem test_witness_DoubleBufferedBurstIsExact :
    buffered.Sound ∧ buffered.Quiet ∧ buffered.seq = .rest ∧ buffered.initialised = true ∧
    (0#4).toNat < tiny.kNumPages ∧ (0#8).toNat < tiny.kPageSize / tiny.kSubpageSize ∧
    15 + tiny.kPageSize ≤ 2 ^ tiny.addrW ∧
    (∀ w ∈ [((14 : Nat), 0x55#8)], w.1 < 15 ∨ 15 + tiny.kPageSize ≤ w.1) ∧
    buffered.prog = .request (sendPageWord 0 0) (some 15) :: (writeActions [(14, 0x55#8)] ++ [.request 0x4000#16 none]) ∧
    after (runUnder (List.replicate 20 [.host, .engine, .bus, .dma]).flatten buffered)
      (fun t => t.prog == [] && t.seq == .rest &&
        panelStream t.trace == [(.cmd, 0x10#8), (.cmd, 0x00#8), (.cmd, 0xB0#8), (.data, 0x3C#8)]) = true :=
  ⟨by constructor <;> decide, by decide, by decide, by decide, by decide, by decide, by decide, by decide, by decide,
    by decide⟩

/-- `FLUSH` latched with a burst in flight, under as many fair rounds as the statement asks for. -/
def flushing : State := { flying tiny 15 with seq := .accept, reqWord := 0x4000#16 }

theorem test_witness_FlushReturnsUnderFairSchedules :
    flushing.Sound ∧ flushing.prog = [] ∧ flushing.seq = .accept ∧ flushing.reqWord = 0x4000#16 ∧
    (∀ r ∈ rounds 8, .engine ∈ r ∧ .dma ∈ r ∧ .bus ∈ r) ∧
    2 * flushing.dmaRemaining + flushing.txq.length + 6 ≤ (rounds 8).length ∧
    after (runUnder (rounds 8).flatten flushing) (fun t => t.seq == .rest && !t.inflight) = true :=
  ⟨by constructor <;> decide, by decide, by decide, by decide, by decide, by decide, by decide⟩

theorem test_witness_EveryRequestReturnsUnderFairSchedules : flushing.Sound ∧ flushing.prog = [] :=
  ⟨by constructor <;> decide, by decide⟩

/-- The last address a frame can be encoded at, and the first it cannot. -/
theorem test_witness_SendFrameExpandsInOrder :
    cfg.wf ∧ 0xFFFFFC7F + (cfg.kNumPages - 1) * cfg.kPageSize < 2 ^ cfg.addrW ∧
    2 ^ cfg.addrW ≤ 0xFFFFFC80 + (cfg.kNumPages - 1) * cfg.kPageSize ∧
    (assemble cfg (.sendFrame 0xFFFFFC7F)).isSome = true ∧ assemble cfg (.sendFrame 0xFFFFFC80) = none := by decide

end Sys2Proof.Tests
end

/-! What a step appends to the trace, agent by agent (R54, R55), and the statements of spec 00_scope.md: that the trace
only grows, and that an agent which may not step holds (R229). -/

namespace Sys2Proof.Machine

/-! ## Engine -/

/-- The events of the engine step at each position but `ACCEPT` (R151 to R158, R171 to R178, R182 to R186, R192 to R199):
they depend on the position alone. What `ACCEPT` records is `stepAccept_trace`. -/
def Seq.events : Seq → List Event
  | .rest | .accept => []
  | .spClk => [.clk .cmd]
  | .spCs => [.cs .asserted]
  | .spCmd => [.dc .cmd]
  | .spDc => [.dc .data]
  | .spCmdWait | .spDma | .spFlag => []
  | .flCs => [.cs .deasserted]
  | .flDma | .flDrain | .flFlag | .flRst => []
  | .clCs => [.cs .asserted]
  | .clCmd => [.dc .cmd]
  | .clData => [.dc .data]
  | .clOn => [.dc .cmd]
  | .clEnd => [.cs .deasserted]
  | .clCmdWait | .clDataWait | .clOnWait => []
  | .inPins => [.pinCfg]
  | .inRstA => [.rst .asserted, .delay .pulse]
  | .inRstR => [.rst .released, .delay .settle]
  | .inClkC => [.clk .cmd]
  | .inTbl => [.cs .asserted, .dc .cmd]
  | .inTblWait => [.cs .deasserted]
  | .inClkN => [.clk .normal]
  | .inDone => []

/-- `ACCEPT` records nothing, or the one fault it raises (R169, R250). -/
theorem stepAccept_trace (s t : State) (h : stepAccept s = .next t) :
    t.trace = s.trace ∨ ∃ f info, t.trace = s.trace ++ [.fault f info] := by
  rcases stepAccept_next s t h with
    ⟨f, info, rfl⟩ | ⟨_, rfl⟩ | ⟨_, _, rfl⟩ | ⟨_, _, _, ⟨_, rfl⟩ | ⟨_, rfl⟩⟩ | ⟨_, rfl⟩ | rfl
  · exact .inr ⟨f, info, rfl⟩
  · exact .inl rfl
  · exact .inl rfl
  · exact .inr ⟨.sendPageInflight, .none, rfl⟩
  · exact .inl rfl
  · exact .inl rfl
  · exact .inl rfl

/-- Past `ACCEPT`, the engine step records the events of its position. -/
theorem engineStep_trace (s t : State) (hseq : s.seq ≠ .accept) (h : engineStep s = .next t) :
    t.trace = s.trace ++ s.seq.events := by
  unfold engineStep at h
  split at h
  case h_2 => exact absurd ‹_› hseq
  all_goals
    rename_i hat
    cases h
    simp [hat, Seq.events, stepSpClk, stepSpCs, stepSpCmd, stepSpCmdWait, stepSpDc, stepSpDma, stepSpFlag, stepFlDma,
      stepFlDrain, stepFlCs, stepFlFlag, stepFlRst, stepClCs, stepClCmd, stepClCmdWait, stepClData, stepClDataWait,
      stepClOn, stepClOnWait, stepClEnd, stepInPins, stepInRstA, stepInRstR, stepInClkC, stepInTbl, stepInTblWait,
      stepInClkN, stepInDone]

/-! ## Host -/

/-- The events of a host action: none for a request, the hazard's fault (R226) before a write, and the `STATUS` read. -/
def hostEvents (s : State) : Action → List Event
  | .request _ _ => []
  | .write a v => if s.writeHazard a then [.fault .fbWriteInflight (.addr a), .hostWr a v] else [.hostWr a v]
  | .readStatus => [.status s.status]

theorem hostAct_trace (a : Action) (s : State) : (hostAct a s).trace = s.trace ++ hostEvents s a := by
  cases a with
  | request w base => simp [hostAct, hostRequest, hostEvents]
  | write a v =>
    rw [hostAct, hostWrite_eq, hostEvents]
    split <;> rfl
  | readStatus => rfl

/-! ## Every agent -/

/-- An enabled agent's step appends to the trace: the host its action's events, the engine its position's, the DMA the
byte it read, the bus the byte it sent. -/
theorem agentStep_trace (a : Agent) (s t : State) (hen : enabled a s = true) (h : agentStep a s = .next t) :
    ∃ es : List Event, t.trace = s.trace ++ es := by
  cases a with
  | host =>
    obtain ⟨_, hprog⟩ := (enabled_host s).mp hen
    obtain ⟨act, more, _, _, rfl⟩ := hostStep_next s t hprog h
    exact ⟨_, hostAct_trace act { s with prog := more }⟩
  | engine =>
    by_cases hseq : s.seq = .accept
    · have hacc : stepAccept s = .next t := by simpa [agentStep, engineStep, hseq] using h
      obtain hnone | ⟨f, info, hfault⟩ := stepAccept_trace s t hacc
      · exact ⟨[], by simp [hnone]⟩
      · exact ⟨_, hfault⟩
    · exact ⟨_, engineStep_trace s t hseq h⟩
  | dma =>
    obtain ⟨_, rfl⟩ := dmaStep_next s t h
    exact ⟨_, rfl⟩
  | bus =>
    obtain ⟨b, queue, hq⟩ := List.exists_cons_of_ne_nil ((enabled_bus s).mp hen)
    rw [agentStep, busStep_cons s b queue hq] at h
    cases h
    exact ⟨_, rfl⟩

/-- Settles O43: a turn held appends nothing, and `agentStep_trace` covers a turn taken. -/
theorem traceOnlyGrows : Obligations.TraceOnlyGrows := by
  intro s t h
  obtain ⟨_, rfl⟩ | ⟨hen, hstep⟩ := step_next_cases s t h
  · exact ⟨[], by simp⟩
  · simpa using agentStep_trace (nextAgent s) (takeTurn s) t hen hstep

/-- Settles O31, from the enabling conditions of each agent and the turn of an agent that may not step. -/
theorem agentsHoldUnlessEnabled : Obligations.AgentsHoldUnlessEnabled := by
  refine ⟨fun s => ⟨enabled_host s, enabled_engine s, enabled_dma s, ?_⟩, ?_⟩
  · rw [enabled_bus, gt_iff_lt, List.length_pos_iff]
  · intro s a later hsched hdis
    rw [step_cons s a later hsched, agentTurn_of_disabled a _ hdis]

end Sys2Proof.Machine

/-! What a step does to each field, said once: the engine's step at each position as a function of the state, what each
position writes to each field, and the inversion of a step of any agent. -/

namespace Sys2Proof.Machine

/-! ## The engine past `ACCEPT` -/

/-- The engine's step at each position (R18) but `ACCEPT`, whose step is the request's and answers the state itself here. -/
def Seq.body (q : Seq) (s : State) : State :=
  match q with
  | .rest | .accept => s
  | .spClk => stepSpClk s
  | .spCs => stepSpCs s
  | .spCmd => stepSpCmd s
  | .spCmdWait => stepSpCmdWait s
  | .spDc => stepSpDc s
  | .spDma => stepSpDma s
  | .spFlag => stepSpFlag s
  | .flDma => stepFlDma s
  | .flDrain => stepFlDrain s
  | .flCs => stepFlCs s
  | .flFlag => stepFlFlag s
  | .flRst => stepFlRst s
  | .clCs => stepClCs s
  | .clCmd => stepClCmd s
  | .clCmdWait => stepClCmdWait s
  | .clData => stepClData s
  | .clDataWait => stepClDataWait s
  | .clOn => stepClOn s
  | .clOnWait => stepClOnWait s
  | .clEnd => stepClEnd s
  | .inPins => stepInPins s
  | .inRstA => stepInRstA s
  | .inRstR => stepInRstR s
  | .inClkC => stepInClkC s
  | .inTbl => stepInTbl s
  | .inTblWait => stepInTblWait s
  | .inClkN => stepInClkN s
  | .inDone => stepInDone s

/-- Past `ACCEPT` the engine performs the body of its position. -/
theorem engineStep_eq_body (s : State) (h : s.seq ≠ .accept) : engineStep s = .next (s.seq.body s) := by
  unfold engineStep
  split
  case h_2 => exact absurd ‹_› h
  all_goals rename_i hat; rw [hat]; rfl

/-! ### Which positions write a field, and what they write -/

theorem Seq.body_cfg (q : Seq) (s : State) : (q.body s).cfg = s.cfg := by cases q <;> rfl
theorem Seq.body_fault (q : Seq) (s : State) : (q.body s).fault = s.fault := by cases q <;> rfl
theorem Seq.body_reqWord (q : Seq) (s : State) : (q.body s).reqWord = s.reqWord := by cases q <;> rfl
theorem Seq.body_reqBase (q : Seq) (s : State) : (q.body s).reqBase = s.reqBase := by cases q <;> rfl

/-- R33. -/
theorem Seq.body_inflight (q : Seq) (s : State) :
    (q.body s).inflight = match q with
      | .spFlag => true
      | .flFlag => false
      | _ => s.inflight := by
  cases q <;> rfl

/-- R34. -/
theorem Seq.body_initialised (q : Seq) (s : State) :
    (q.body s).initialised = match q with
      | .inDone => true
      | _ => s.initialised := by
  cases q <;> rfl

/-- R37. -/
theorem Seq.body_xferBase (q : Seq) (s : State) :
    (q.body s).xferBase = match q with
      | .spFlag => s.reqBase
      | _ => s.xferBase := by
  cases q <;> rfl

/-- R38. -/
theorem Seq.body_clearPage (q : Seq) (s : State) :
    (q.body s).clearPage = match q with
      | .inClkN => 0
      | .clDataWait => s.clearPage + 1
      | _ => s.clearPage := by
  cases q <;> rfl

/-- R38. -/
theorem Seq.body_ret (q : Seq) (s : State) :
    (q.body s).ret = match q with
      | .inClkN => .init
      | _ => s.ret := by
  cases q <;> rfl

/-- R39. -/
theorem Seq.body_cs (q : Seq) (s : State) :
    (q.body s).cs = match q with
      | .spCs | .clCs | .inTbl => .asserted
      | .flCs | .clEnd | .inPins | .inTblWait => .deasserted
      | _ => s.cs := by
  cases q <;> rfl

/-- R40. -/
theorem Seq.body_dc (q : Seq) (s : State) :
    (q.body s).dc = match q with
      | .spCmd | .clCmd | .clOn | .inPins | .inTbl => .cmd
      | .spDc | .clData => .data
      | _ => s.dc := by
  cases q <;> rfl

/-- R41. -/
theorem Seq.body_rst (q : Seq) (s : State) :
    (q.body s).rst = match q with
      | .inPins | .inRstR => .released
      | .inRstA => .asserted
      | _ => s.rst := by
  cases q <;> rfl

/-- R42. -/
theorem Seq.body_clk (q : Seq) (s : State) :
    (q.body s).clk = match q with
      | .spClk | .inClkC => .cmd
      | .inClkN => .normal
      | _ => s.clk := by
  cases q <;> rfl

/-- R43. -/
theorem Seq.body_pinCfg (q : Seq) (s : State) :
    (q.body s).pinCfg = match q with
      | .inPins => true
      | _ => s.pinCfg := by
  cases q <;> rfl

/-- R44, R177, R186: a descriptor is loaded at `SP_DMA` and dropped at `FL_RST`. -/
theorem Seq.body_dma (q : Seq) (s : State) :
    ((q.body s).dmaSrc, (q.body s).dmaRemaining, (q.body s).dmaActive, (q.body s).dmaDone) = match q with
      | .spDma => (burstAddr s.cfg s.reqBase s.reqSub, s.cfg.kSubpageSize, true, false)
      | .flRst => (s.dmaSrc, 0, false, false)
      | _ => (s.dmaSrc, s.dmaRemaining, s.dmaActive, s.dmaDone) := by
  cases q <;> rfl

/-! ### `Clear` ends at `REST` or in `INIT`, at no step of another request (R199) -/

@[simp] theorem ClearReturn.target_sending (r : ClearReturn) : r.target.sending = false := by cases r <;> rfl
@[simp] theorem ClearReturn.target_flushing (r : ClearReturn) : r.target.flushing = false := by cases r <;> rfl
@[simp] theorem ClearReturn.target_clearing (r : ClearReturn) : r.target.clearing = false := by cases r <;> rfl
@[simp] theorem ClearReturn.target_ne_spFlag (r : ClearReturn) : r.target ≠ .spFlag := by cases r <;> nofun
@[simp] theorem ClearReturn.target_ne_flRst (r : ClearReturn) : r.target ≠ .flRst := by cases r <;> nofun

/-! ## A step of any agent -/

/-- INVERSION of an enabled agent's step: what each agent does. -/
theorem agentStep_cases (a : Agent) (s t : State) (hen : enabled a s = true) (h : agentStep a s = .next t) :
    (a = .host ∧ s.seq = .rest ∧
      ∃ act more, s.prog = act :: more ∧ act.encodable s.cfg = true ∧ t = hostAct act { s with prog := more }) ∨
    (a = .engine ∧ s.seq = .accept ∧ stepAccept s = .next t) ∨
    (a = .engine ∧ s.seq ≠ .accept ∧ t = s.seq.body s) ∨
    (a = .dma ∧ s.dmaActive = true ∧ 0 < s.dmaRemaining ∧ t = dmaMove (Memory.read s.mem s.dmaSrc) s) ∨
    (a = .bus ∧ ∃ b queue, s.txq = b :: queue ∧ t = State.transmit b { s with txq := queue }) := by
  cases a with
  | host =>
    obtain ⟨hseq, hprog⟩ := (enabled_host s).mp hen
    exact .inl ⟨rfl, hseq, hostStep_next s t hprog h⟩
  | engine =>
    by_cases hseq : s.seq = .accept
    · exact .inr (.inl ⟨rfl, hseq, by simpa [agentStep, engineStep, hseq] using h⟩)
    · rw [agentStep, engineStep_eq_body s hseq] at h
      cases h
      exact .inr (.inr (.inl ⟨rfl, hseq, rfl⟩))
  | dma =>
    obtain ⟨hact, hrem⟩ := (enabled_dma s).mp hen
    exact .inr (.inr (.inr (.inl ⟨rfl, hact, hrem, (dmaStep_next s t h).2⟩)))
  | bus =>
    obtain ⟨b, queue, hq⟩ := List.exists_cons_of_ne_nil ((enabled_bus s).mp hen)
    rw [agentStep, busStep_cons s b queue hq] at h
    cases h
    exact .inr (.inr (.inr (.inr ⟨rfl, b, queue, hq, rfl⟩)))

/-! ### Frames -/

/-- FRAMES of a step, by who takes it: the engine past `ACCEPT`, whose writes the `Seq.body` lemmas give; the engine at
`ACCEPT`; the host with a request; the DMA; the host with a `WRITE` or a `READ_STATUS`; and the bus, or an agent that
holds. -/
theorem step_frames (s t : State) (h : step s = .next t) :
    (nextAgent s = .engine ∧ s.seq ≠ .accept ∧ t = s.seq.body (takeTurn s)) ∨
    (nextAgent s = .engine ∧ s.seq = .accept ∧
      ((t.clearPage = s.clearPage ∧ t.ret = s.ret) ∨ (t.clearPage = 0 ∧ t.ret = .host)) ∧
      t = { s with
            phase := t.phase, seq := t.seq, fault := t.fault, clearPage := t.clearPage, ret := t.ret, trace := t.trace,
            panel := t.panel, sched := t.sched, turn := t.turn }) ∨
    (nextAgent s = .host ∧ (∃ w base more, s.prog = .request w base :: more) ∧
      t = { s with
            seq := t.seq, reqWord := t.reqWord, reqBase := t.reqBase, prog := t.prog, sched := t.sched,
            turn := t.turn }) ∨
    (nextAgent s = .dma ∧
      t = { s with
            dmaSrc := t.dmaSrc, dmaRemaining := t.dmaRemaining, dmaDone := t.dmaDone, txq := t.txq, trace := t.trace,
            panel := t.panel, sched := t.sched, turn := t.turn }) ∨
    (nextAgent s = .host ∧
      t = { s with
            mem := t.mem, fault := t.fault, trace := t.trace, panel := t.panel, prog := t.prog, sched := t.sched,
            turn := t.turn }) ∨
    t = { s with txq := t.txq, trace := t.trace, panel := t.panel, sched := t.sched, turn := t.turn } := by
  obtain ⟨_, hheld⟩ | ⟨hen, hstep⟩ := step_next_cases s t h
  · exact .inr (.inr (.inr (.inr (.inr (by rw [hheld, takeTurn_eq])))))
  obtain ⟨sched, turn, hturn⟩ : ∃ sched turn, takeTurn s = { s with sched := sched, turn := turn } :=
    ⟨_, _, takeTurn_eq s⟩
  rw [hturn] at hen hstep ⊢
  rcases agentStep_cases _ _ _ hen hstep with
    ⟨ha, _, act, more, hprog, _, rfl⟩ | ⟨ha, hseq, hacc⟩ | ⟨ha, hseq, rfl⟩ | ⟨ha, _, _, rfl⟩ | ⟨_, b, queue, _, rfl⟩
  · cases act with
    | request w base => exact .inr (.inr (.inl ⟨ha, ⟨w, base, more, hprog⟩, rfl⟩))
    | write a v =>
      refine .inr (.inr (.inr (.inr (.inl ⟨ha, ?_⟩))))
      simp only [hostAct, hostWrite_eq]
      split <;> rfl
    | readStatus => exact .inr (.inr (.inr (.inr (.inl ⟨ha, rfl⟩))))
  · refine .inr (.inl ⟨ha, hseq, ?_⟩)
    rcases stepAccept_next _ _ hacc with
      ⟨f, info, rfl⟩ | ⟨_, rfl⟩ | ⟨_, _, rfl⟩ | ⟨_, _, _, ⟨_, rfl⟩ | ⟨_, rfl⟩⟩ | ⟨_, rfl⟩ | rfl
    case inr.inr.inl => exact ⟨.inr ⟨rfl, rfl⟩, rfl⟩
    all_goals exact ⟨.inl ⟨rfl, rfl⟩, rfl⟩
  · exact .inl ⟨ha, hseq, rfl⟩
  · exact .inr (.inr (.inr (.inl ⟨ha, rfl⟩)))
  · exact .inr (.inr (.inr (.inr (.inr rfl))))

end Sys2Proof.Machine

/-! Who writes what: the statements of spec 10_state.md on the writers of each field, from the frames of a step. -/

namespace Sys2Proof.Machine

/-- Settles O44: every frame but the engine's past `ACCEPT` keeps the flag, and there two positions write it. -/
theorem inflightHasTwoWriters : Obligations.InflightHasTwoWriters := by
  intro s t h hne
  rcases step_frames s t h with ⟨ha, _, rfl⟩ | ⟨_, _, _, hf⟩ | ⟨_, _, hf⟩ | ⟨_, hf⟩ | ⟨_, hf⟩ | hf
  · rw [Seq.body_inflight] at hne ⊢
    refine ⟨ha, ?_⟩
    split at hne <;> simp_all
  all_goals exact absurd (congrArg State.inflight hf) hne

/-- Settles O48: the DMA's frame and the engine's past `ACCEPT` allow a change, the latter at two positions. -/
theorem dmaRegistersHaveThreeWriters : Obligations.DmaRegistersHaveThreeWriters := by
  intro s t h hne
  rcases step_frames s t h with ⟨ha, _, rfl⟩ | ⟨_, _, _, hf⟩ | ⟨_, _, hf⟩ | ⟨hdma, _⟩ | ⟨_, hf⟩ | hf
  case inr.inr.inr.inl => exact .inl hdma
  · rw [Seq.body_dma] at hne
    refine .inr ⟨ha, ?_⟩
    split at hne <;> simp_all
  all_goals
    exact absurd (congrArg (fun x : State => (x.dmaSrc, x.dmaRemaining, x.dmaActive, x.dmaDone)) hf) hne

/-- Settles O49: only the engine's frame past `ACCEPT` allows a changed pin, and there each pin has its positions. -/
theorem pinsHaveTheirWriters : Obligations.PinsHaveTheirWriters := by
  intro s t h
  rcases step_frames s t h with ⟨ha, _, rfl⟩ | ⟨_, _, _, hf⟩ | ⟨_, _, hf⟩ | ⟨_, hf⟩ | ⟨_, hf⟩ | hf
  · rw [Seq.body_cs, Seq.body_dc, Seq.body_rst, Seq.body_clk, Seq.body_pinCfg]
    refine ⟨?_, ?_, ?_, ?_, ?_⟩
    all_goals
      intro hne
      refine ⟨ha, ?_⟩
      split at hne <;> simp_all
  all_goals
    exact ⟨fun hne => absurd (congrArg State.cs hf) hne, fun hne => absurd (congrArg State.dc hf) hne,
      fun hne => absurd (congrArg State.rst hf) hne, fun hne => absurd (congrArg State.clk hf) hne,
      fun hne => absurd (congrArg State.pinCfg hf) hne⟩

/-- Settles O50: of the frames, the host's request allows changed latches, `ACCEPT` a changed clear counter and return,
and the engine's past `ACCEPT` what its positions write. -/
theorem latchesHaveTheirWriters : Obligations.LatchesHaveTheirWriters := by
  intro s t h
  rcases step_frames s t h with ⟨ha, _, rfl⟩ | ⟨ha, hseq, hclear, hf⟩ | ⟨hhost, hreq, hf⟩ | ⟨_, hf⟩ | ⟨_, hf⟩ | hf
  · rw [Seq.body_cfg, Seq.body_reqWord, Seq.body_reqBase, Seq.body_xferBase, Seq.body_clearPage, Seq.body_ret]
    refine ⟨takeTurn_cfg s, fun hne => absurd (by simp) hne, ?_, ?_, ?_⟩
    all_goals
      intro hne
      refine ⟨ha, ?_⟩
      split at hne <;> simp_all
  · refine ⟨(congrArg State.cfg hf :), fun hne => absurd (congrArg (fun x : State => (x.reqWord, x.reqBase)) hf) hne,
      fun hne => absurd (congrArg State.xferBase hf) hne, fun hne => ⟨ha, .inl ⟨hseq, ?_⟩⟩,
      fun hne => ⟨ha, .inl ⟨hseq, ?_⟩⟩⟩
    · exact (hclear.resolve_left fun hkept => hne hkept.1).1
    · exact (hclear.resolve_left fun hkept => hne hkept.2).2
  · exact ⟨(congrArg State.cfg hf :), fun _ => ⟨hhost, hreq⟩, fun hne => absurd (congrArg State.xferBase hf) hne,
      fun hne => absurd (congrArg State.clearPage hf) hne, fun hne => absurd (congrArg State.ret hf) hne⟩
  all_goals
    exact ⟨(congrArg State.cfg hf :), fun hne => absurd (congrArg (fun x : State => (x.reqWord, x.reqBase)) hf) hne,
      fun hne => absurd (congrArg State.xferBase hf) hne, fun hne => absurd (congrArg State.clearPage hf) hne,
      fun hne => absurd (congrArg State.ret hf) hne⟩

/-! ## Faults -/

/-- `ACCEPT` leaves `E.fault` as it is or sets one bit of it (R169, R250). -/
theorem stepAccept_fault (s t : State) (h : stepAccept s = .next t) :
    t.fault = s.fault ∨ ∃ f : FaultCode, t.fault = s.fault ||| f.bit := by
  rcases stepAccept_next s t h with
    ⟨f, info, rfl⟩ | ⟨_, rfl⟩ | ⟨_, _, rfl⟩ | ⟨_, _, _, ⟨_, rfl⟩ | ⟨_, rfl⟩⟩ | ⟨_, rfl⟩ | rfl
  · exact .inr ⟨f, rfl⟩
  · exact .inl rfl
  · exact .inl rfl
  · exact .inr ⟨.sendPageInflight, rfl⟩
  · exact .inl rfl
  · exact .inl rfl
  · exact .inl rfl

/-- A host action leaves `E.fault` as it is, but that a hazardous `WRITE` sets its bit (R226). -/
theorem hostAct_fault (act : Action) (s : State) :
    (hostAct act s).fault = s.fault ∨ ∃ f : FaultCode, (hostAct act s).fault = s.fault ||| f.bit := by
  cases act with
  | request w base => exact .inl rfl
  | write a v =>
    rw [hostAct, hostWrite_eq]
    split
    · exact .inr ⟨.fbWriteInflight, rfl⟩
    · exact .inl rfl
  | readStatus => exact .inl rfl

/-- A step leaves `E.fault` as it is or sets one bit of it (R35, R250). -/
theorem step_fault (s t : State) (h : step s = .next t) :
    t.fault = s.fault ∨ ∃ f : FaultCode, t.fault = s.fault ||| f.bit := by
  obtain ⟨_, rfl⟩ | ⟨hen, hstep⟩ := step_next_cases s t h
  · exact .inl (takeTurn_fault s)
  rw [← takeTurn_fault s]
  rcases agentStep_cases _ _ _ hen hstep with
    ⟨_, _, act, more, _, _, rfl⟩ | ⟨_, _, hacc⟩ | ⟨_, _, rfl⟩ | ⟨_, _, _, rfl⟩ | ⟨_, b, queue, _, rfl⟩
  · exact hostAct_fault act { takeTurn s with prog := more }
  · exact stepAccept_fault _ t hacc
  · exact .inl (Seq.body_fault _ _)
  · exact .inl rfl
  · exact .inl rfl

/-- A fault-free state is reached by a step from none but a fault-free state. -/
theorem step_fault_eq_zero (s t : State) (h : step s = .next t) (ht : t.fault = 0#7) : s.fault = 0#7 := by
  obtain hkept | ⟨f, hset⟩ := step_fault s t h
  · exact hkept.symm.trans ht
  · exact (BitVec.or_eq_zero_iff.mp (hset.symm.trans ht)).1

/-- Settles O42: a step adds at most a bit to `E.fault`, and the positions that write the two flags set them. -/
theorem stickyBitsStaySet : Obligations.StickyBitsStaySet := by
  intro s t h
  refine ⟨?_, ?_⟩
  · obtain hkept | ⟨f, hset⟩ := step_fault s t h
    · rw [hkept, BitVec.and_self]
    · rw [hset, and_or_self]
  rcases step_frames s t h with ⟨_, _, rfl⟩ | ⟨_, _, _, hf⟩ | ⟨_, _, hf⟩ | ⟨_, hf⟩ | ⟨_, hf⟩ | hf
  · rw [Seq.body_initialised, Seq.body_pinCfg]
    constructor
    all_goals intro hset; split <;> simp_all
  all_goals
    exact ⟨(congrArg State.initialised hf).trans, (congrArg State.pinCfg hf).trans⟩

end Sys2Proof.Machine

/-! Every step keeps `State.Sound`: each agent's step, field by field of the invariant. -/

namespace Sys2Proof.Machine

/-- `Sound` reads neither the wire side (phase, command buffer, pins, queue, trace, panel) nor `E.fault`,
`E.initialised`, `E.ret` and the schedule. -/
theorem State.Sound.of_frame (s t : State) (hs : s.Sound)
    (h : t = { s with
               phase := t.phase, cmdbuf := t.cmdbuf, initialised := t.initialised, fault := t.fault, ret := t.ret,
               cs := t.cs, dc := t.dc, rst := t.rst, clk := t.clk, pinCfg := t.pinCfg, txq := t.txq, trace := t.trace,
               panel := t.panel, sched := t.sched, turn := t.turn }) : t.Sound := by
  rw [h]; exact { hs with }

/-- A step that moves the sequencer and, besides, touches only the wire side keeps `Sound` where its new position is met
with what `Sound` asks of it: a page to clear, an accepted `SEND_PAGE`, a burst to flush. -/
theorem State.Sound.enter (s t : State) (hs : s.Sound)
    (h : t = { s with
               seq := t.seq, phase := t.phase, cmdbuf := t.cmdbuf, initialised := t.initialised, fault := t.fault,
               ret := t.ret, cs := t.cs, dc := t.dc, rst := t.rst, clk := t.clk, pinCfg := t.pinCfg, txq := t.txq,
               trace := t.trace, panel := t.panel, sched := t.sched, turn := t.turn })
    (hclear : t.seq.clearing = true → s.clearPage < s.cfg.kNumPages)
    (hsend : t.seq.sending = true →
      argsInRange s.cfg s.reqPage s.reqSub = true ∧ pageOverruns s.cfg s.reqBase = false)
    (hload : t.seq ≠ .spFlag) (hflush : t.seq.flushing = true → s.inflight = true) (hclose : t.seq ≠ .flRst) :
    t.Sound := by
  rw [h]
  exact { hs with
    clearPageInUse := hclear, accepted := hsend, loaded := fun h => absurd h hload, flushed := hflush
    closed := fun h => absurd h hclose }

theorem takeTurn_sound (s : State) (hs : s.Sound) : (takeTurn s).Sound := by
  rw [takeTurn_eq]; exact { hs with }

/-! ## Host -/

theorem hostRequest_sound (w : ReqWord) (base : Option Nat) (s : State) (hs : s.Sound)
    (henc : (Action.request w base).encodable s.cfg = true) : (hostRequest w base s).Sound := by
  have hbase : s.cfg.fitsAddr (base.getD s.reqBase) := by
    cases base with
    | none => exact hs.requestBase
    | some b => simpa [Action.encodable] using (Bool.and_eq_true_iff.mp henc).2
  exact { hs with requestBase := hbase, clearPageInUse := nofun, accepted := nofun, loaded := nofun, flushed := nofun,
                  closed := nofun }

theorem hostWrite_sound (a : Nat) (v : Byte) (s : State) (hs : s.Sound) (ha : s.cfg.fitsAddr a) :
    (hostWrite a v s).Sound := by
  have hmem : State.Sound { s with mem := Memory.write s.mem a v } :=
    { hs with
      memory := Memory.write_wf s.mem a v hs.memory
      memoryBound := fun x hx => by
        obtain rfl | hlisted := Memory.mem_write s.mem a v x hx
        · exact ha
        · exact hs.memoryBound x hlisted }
  rw [hostWrite_eq]
  split
  · exact hmem.of_frame _ _ rfl
  · exact hmem.of_frame _ _ rfl

theorem hostAct_sound (act : Action) (more : List Action) (s : State) (hs : s.Sound) (hprog : s.prog = act :: more)
    (henc : act.encodable s.cfg = true) : (hostAct act { s with prog := more }).Sound := by
  have hrest : State.Sound { s with prog := more } :=
    { hs with actions := fun a ha => hs.actions a (hprog ▸ List.mem_cons_of_mem act ha) }
  cases act with
  | request w base => exact hostRequest_sound w base _ hrest henc
  | write a v => exact hostWrite_sound a v _ hrest (by simpa [Action.encodable] using henc)
  | readStatus => exact hrest.of_frame _ _ rfl

/-! ## DMA -/

theorem dmaMove_sound (b : Byte) (s : State) (hs : s.Sound) (hact : s.dmaActive = true) (hrem : 0 < s.dmaRemaining) :
    (dmaMove b s).Sound := by
  have hmoved : State.Sound { s with
      dmaSrc := s.dmaSrc + 1, dmaRemaining := s.dmaRemaining - 1,
      dmaDone := if s.dmaRemaining - 1 = 0 then true else s.dmaDone } :=
    { hs with
      burstBound := (Nat.sub_le _ _).trans hs.burstBound
      burstFits := by have := hs.burstFits; simp only; omega
      idleDma := fun h => absurd (hact.symm.trans h) nofun
      completion := fun _ => by
        have hdone : s.dmaDone = false := by
          simpa [hrem.ne'] using hs.completion hact
        simp [hdone] }
  exact hmoved.of_frame _ _ (dmaMove_eq b s)

/-! ## Engine -/

/-- The requests of `ACCEPT`: a sequence is entered only with what its steps rely on (R150, R170, R181, R190). -/
theorem stepAccept_sound (s t : State) (hs : s.Sound) (h : stepAccept s = .next t) : t.Sound := by
  rcases stepAccept_next s t h with
    ⟨f, info, rfl⟩ | ⟨_, rfl⟩ | ⟨_, _, rfl⟩ | ⟨_, hargs, hpage, ⟨_, rfl⟩ | ⟨_, rfl⟩⟩ | ⟨hfly, rfl⟩ | rfl
  · exact hs.enter s _ rfl nofun nofun nofun nofun nofun
  · exact hs.enter s _ rfl nofun nofun nofun nofun nofun
  · exact { hs with
      clearPageBound := Nat.zero_le _, clearPageInUse := fun _ => hs.config.1, accepted := nofun, loaded := nofun
      flushed := nofun, closed := nofun }
  · exact hs.enter s _ rfl nofun (fun _ => ⟨hargs, hpage⟩) nofun nofun nofun
  · exact hs.enter s _ rfl nofun (fun _ => ⟨hargs, hpage⟩) nofun nofun nofun
  · exact hs.enter s _ rfl nofun nofun nofun (fun _ => hfly) nofun
  · exact hs.enter s _ rfl nofun nofun nofun nofun nofun

/-- `CL_DATAWAIT` goes to the next page while there is one (R196). -/
theorem stepClDataWait_sound (s : State) (hs : s.Sound) (huse : s.clearPage < s.cfg.kNumPages) :
    (stepClDataWait s).Sound := by
  unfold stepClDataWait
  split
  · exact { hs with
      clearPageBound := huse, clearPageInUse := fun _ => ‹_›
      accepted := nofun, loaded := nofun, flushed := nofun, closed := nofun }
  · exact { hs with
      clearPageBound := huse
      clearPageInUse := nofun, accepted := nofun, loaded := nofun, flushed := nofun, closed := nofun }

/-- The engine past `ACCEPT`. Most positions only move on within their request; the others write the clear counter, the
in-flight flag or the DMA's registers. -/
theorem Seq.body_sound (s : State) (hs : s.Sound) : (s.seq.body s).Sound := by
  cases hq : s.seq
  case rest | accept => exact hs
  case inPins | inRstA | inRstR | inClkC | inTbl | inTblWait | inDone | clOn | clOnWait =>
    exact hs.enter s _ rfl nofun nofun nofun nofun nofun
  case spClk | spCs | spCmd | spCmdWait | spDc =>
    exact hs.enter s _ rfl nofun (fun _ => hs.accepted (by rw [hq]; rfl)) nofun nofun nofun
  case flDma | flDrain | flCs =>
    exact hs.enter s _ rfl nofun nofun nofun (fun _ => hs.flushed (by rw [hq]; rfl)) nofun
  case clCs | clCmd | clCmdWait | clData =>
    exact hs.enter s _ rfl (fun _ => hs.clearPageInUse (by rw [hq]; rfl)) nofun nofun nofun nofun
  case spDma =>
    have hacc := hs.accepted (by rw [hq]; rfl)
    have hsub : s.reqSub < numSubpages s.cfg := of_decide_eq_true (Bool.and_eq_true_iff.mp hacc.1).2
    obtain ⟨_, _, _, _, hpos, _⟩ := hs.config
    exact { hs with
      burstBound := le_rfl, burstFits := burst_fits s.cfg s.reqBase s.reqSub hsub hacc.2, accepted := fun _ => hacc
      loaded := fun _ => rfl, outstanding := fun _ => rfl, idleDma := nofun
      completion := fun _ => ⟨nofun, fun hnone => absurd hnone (Nat.ne_of_gt hpos)⟩
      clearPageInUse := nofun, flushed := nofun, closed := nofun }
  case spFlag =>
    exact { hs with
      transferBase := hs.requestBase, outstanding := fun _ => hs.loaded hq
      clearPageInUse := nofun, accepted := nofun, loaded := nofun, flushed := nofun, closed := nofun }
  case flFlag =>
    exact { hs with
      outstanding := nofun, closed := fun _ => rfl
      clearPageInUse := nofun, accepted := nofun, loaded := nofun, flushed := nofun }
  case flRst =>
    exact { hs with
      burstBound := Nat.zero_le _, burstFits := (Nat.le_add_right _ _).trans hs.burstFits
      outstanding := fun hfly => absurd ((hs.closed hq).symm.trans hfly) nofun, idleDma := fun _ => ⟨rfl, rfl⟩
      completion := nofun
      clearPageInUse := nofun, accepted := nofun, loaded := nofun, flushed := nofun, closed := nofun }
  case inClkN =>
    exact { hs with
      clearPageBound := Nat.zero_le _, clearPageInUse := fun _ => hs.config.1
      accepted := nofun, loaded := nofun, flushed := nofun, closed := nofun }
  case clDataWait => exact stepClDataWait_sound s hs (hs.clearPageInUse (by rw [hq]; rfl))
  case clEnd =>
    refine hs.enter s _ rfl ?_ ?_ ?_ ?_ ?_
    all_goals simp [Seq.body, stepClEnd]

/-! ## A step of any agent -/

/-- Settles O36: taking the turn keeps `Sound`, and so does each agent's step. -/
theorem stepKeepsSound : Obligations.StepKeepsSound := by
  intro s t hs h
  have hr := takeTurn_sound s hs
  obtain ⟨_, rfl⟩ | ⟨hen, hstep⟩ := step_next_cases s t h
  · exact hr
  rcases agentStep_cases _ _ _ hen hstep with
    ⟨_, _, act, more, hprog, henc, rfl⟩ | ⟨_, _, hacc⟩ | ⟨_, _, rfl⟩ | ⟨_, hact, hrem, rfl⟩ | ⟨_, b, queue, _, rfl⟩
  · exact hostAct_sound act more _ hr hprog henc
  · exact stepAccept_sound _ t hr hacc
  · exact Seq.body_sound _ hr
  · exact dmaMove_sound _ _ hr hact hrem
  · exact hr.of_frame _ _ rfl

end Sys2Proof.Machine

/-! Every step keeps `State.Orderly` (R56, R203, R287, R288): `engineStep_disciplined` is the engine's part; the other
agents move neither the sequencer out of `REST` and `ACCEPT` nor the pins, and a byte is queued or sent only where the
discipline expects one. -/

namespace Sys2Proof.Machine

/-- The discipline reads the position, the flags of the burst, the phase, chip-select and the mode select; and of the
queue and the DMA only that nothing is queued where no descriptor is loaded or nothing remains. -/
theorem State.Disciplined.of_frame (s t : State) (hd : s.Disciplined)
    (hkept : (t.seq, t.inflight, t.dmaActive, t.phase, t.cs, t.dc) =
      (s.seq, s.inflight, s.dmaActive, s.phase, s.cs, s.dc))
    (hrem : s.dmaRemaining = 0 → t.dmaRemaining = 0)
    (hqueue : s.txq = [] → s.dmaActive = false ∨ s.dmaRemaining = 0 → t.txq = []) : t.Disciplined := by
  simp only [Prod.mk.injEq] at hkept
  obtain ⟨hseq, hfly, hact, hphase, hcs, hdc⟩ := hkept
  unfold State.Disciplined at hd ⊢
  rw [hseq]
  cases hq : s.seq
  case rest | accept =>
    rw [hq] at hd
    exact hd.imp (fun ⟨_, _⟩ => by simp_all [State.Quiet]) (fun _ => by simp_all [State.Bursting])
  all_goals simp_all [State.Quiet, State.Bursting, State.Sending]

theorem hostAct_disciplined (act : Action) (more : List Action) (s : State) (hd : s.Disciplined)
    (hseq : s.seq = .rest) : (hostAct act { s with prog := more }).Disciplined := by
  cases act with
  | request w base => simpa [State.Disciplined, hseq, hostAct, hostRequest] using hd
  | write a v =>
    rw [hostAct, hostWrite_eq]
    split <;> exact hd.of_frame s _ rfl id fun h _ => h
  | readStatus => exact hd.of_frame s _ rfl id fun h _ => h

/-- A byte moves only in a burst: nothing the discipline says of an unloaded or finished descriptor applies (R222). -/
theorem dmaMove_disciplined (b : Byte) (s : State) (hd : s.Disciplined) (hact : s.dmaActive = true)
    (hrem : 0 < s.dmaRemaining) : (dmaMove b s).Disciplined := by
  refine hd.of_frame s _ rfl (fun hnone => absurd hnone hrem.ne') fun _ hidle => ?_
  simp [hact, hrem.ne'] at hidle

/-- Settles O37: `Sound` by O36; the discipline of a fault-free state, from one that was fault-free too, agent by agent. -/
theorem stepKeepsOrderly : Obligations.StepKeepsOrderly := by
  intro s t ⟨hs, hdisc⟩ h
  refine ⟨stepKeepsSound s t hs h, fun hfault => ?_⟩
  have hd : (takeTurn s).Disciplined :=
    (hdisc (step_fault_eq_zero s t h hfault)).of_frame s _ (by simp) (by simp) fun hq _ => by simpa using hq
  obtain ⟨_, rfl⟩ | ⟨hen, hstep⟩ := step_next_cases s t h
  · exact hd
  by_cases hagent : nextAgent s = .engine
  · rw [hagent] at hen hstep
    obtain ⟨hseq, hawait⟩ := (enabled_engine _).mp hen
    exact engineStep_disciplined _ t (takeTurn_sound s hs) hd hseq hawait hfault hstep
  rcases agentStep_cases _ _ _ hen hstep with
    ⟨_, hseq, act, more, _, _, rfl⟩ | ⟨hengine, _⟩ | ⟨hengine, _⟩ | ⟨_, hact, hrem, rfl⟩ | ⟨_, b, queue, hqueue, rfl⟩
  · exact hostAct_disciplined act more _ hd hseq
  · exact absurd hengine hagent
  · exact absurd hengine hagent
  · exact dmaMove_disciplined _ _ hd hact hrem
  · exact hd.of_frame _ _ rfl id fun hempty _ => absurd (hqueue.symm.trans hempty) nofun

/-! ## What the discipline says of a burst and of a quiet engine -/

/-- A burst in flight is on the bus held for it (R56.1, R56.3), but that `FL_CS` lets chip-select go (assumption 10). -/
theorem State.Disciplined.of_inflight (s : State) (hd : s.Disciplined) (hfly : s.inflight = true) :
    s.phase = .dataPhaseAsync ∧ s.dc = .data ∧ (s.seq ≠ .flFlag → s.cs = .asserted) := by
  unfold State.Disciplined at hd
  split at hd <;> simp_all [State.Quiet, State.Bursting]

/-- `REST` is quiet and Idle, or holds a burst. -/
theorem State.Disciplined.at_rest (s : State) (hd : s.Disciplined) (hseq : s.seq = .rest) :
    (s.Quiet ∧ s.phase = .idle) ∨ s.Bursting := by
  simpa [State.Disciplined, hseq] using hd

/-- Settles O39: what the discipline says of a burst in flight, of `REST`, of `FL_FLAG` and of `SP_DMA`. -/
theorem faultFreeStatesMeetTheListedInvariants : Obligations.FaultFreeStatesMeetTheListedInvariants := by
  intro s ⟨_, hdisc⟩ hfault
  have hd := hdisc hfault
  refine ⟨fun hfly => (hd.of_inflight s hfly).1, fun hphase hseq => ?_, fun hfly => (hd.of_inflight s hfly).2.1,
    fun hfly => (hd.of_inflight s hfly).2.2, fun hseq => ?_, fun hseq => ?_, fun hseq hfly => ?_⟩
  · obtain ⟨_, hidle⟩ | ⟨hfly, _⟩ := hd.at_rest s hseq
    · rw [hphase] at hidle; cases hidle
    · exact hfly
  · simp only [State.Disciplined, hseq] at hd
    obtain ⟨_, _, hcs, _, hrem, hq⟩ := hd
    exact ⟨hcs, hq, hrem⟩
  · simp only [State.Disciplined, hseq] at hd
    obtain ⟨⟨hfly, hact, _⟩, _⟩ := hd
    exact ⟨hfly, hact⟩
  · obtain ⟨⟨_, hact, hq⟩, _⟩ | ⟨hfly', _⟩ := hd.at_rest s hseq
    · exact ⟨hq, hact⟩
    · rw [hfly] at hfly'; cases hfly'

/-- The engine's turn past `ACCEPT`, where its `await` holds. -/
theorem step_engine_body (s : State) (q : Seq) (later : List Agent) (hsched : s.sched = .engine :: later)
    (hseq : s.seq = q) (hrest : q ≠ .rest) (hacc : q ≠ .accept) (hawait : s.awaitHolds = true) :
    step s = .next (q.body { s with sched := later }) := by
  subst hseq
  rw [step_cons s .engine later hsched, agentTurn_of_enabled]
  · exact engineStep_eq_body _ hacc
  · exact (enabled_engine _).mpr ⟨hrest, hawait⟩

/-- Settles O40: the steps at `FL_CS` and `FL_FLAG`, computed, from the discipline at `FL_CS`. -/
theorem chipSelectDropsBeforeTheFlag : Obligations.ChipSelectDropsBeforeTheFlag := by
  intro s later hs hfault hseq hsched
  have hd := hs.2 hfault
  simp only [State.Disciplined, hseq] at hd
  obtain ⟨⟨hfly, _, _, hdc⟩, hrem, hqueue⟩ := hd
  have hstep := step_engine_body s .flCs later hsched hseq nofun nofun (by simp [State.awaitHolds, hseq])
  have ht := stepKeepsOrderly s _ hs hstep
  refine ⟨_, hstep, ht, hfault, hfly, rfl, hdc, hqueue, hrem, fun more hlater => ?_⟩
  have hstep' := step_engine_body (Seq.flCs.body { s with sched := later }) .flFlag more hlater rfl nofun nofun rfl
  exact ⟨_, hstep', stepKeepsOrderly _ _ ht hstep', hfault, rfl, rfl, hdc⟩

/-! ## Launch -/

/-- Every launch state is sound: its registers are zero (assumption 6) and its inputs canonical. -/
theorem launch_sound (c : Config) (m : Memory) (prog : List Action) (sched : List Agent) (hc : c.wf) (hm : Memory.wf m)
    (hbound : ∀ x ∈ m, x.1 < 2 ^ c.addrW) (hprog : ∀ a ∈ prog, a.encodable c = true) :
    (State.launch c m prog sched).Sound where
  config := hc
  memory := hm
  memoryBound := hbound
  actions := hprog
  requestBase := Nat.two_pow_pos _
  transferBase := Nat.two_pow_pos _
  clearPageBound := Nat.zero_le _
  clearPageInUse := nofun
  burstBound := Nat.zero_le _
  burstFits := Nat.zero_le _
  accepted := nofun
  loaded := nofun
  flushed := nofun
  closed := nofun
  outstanding := nofun
  idleDma := fun _ => ⟨rfl, rfl⟩
  completion := nofun

/-- Settles O35: a launch state is sound, quiet and Idle. The registers reset leaves open are zero (assumption 6). -/
theorem launchStatesAreOrderly : Obligations.LaunchStatesAreOrderly :=
  fun c m prog sched hc hm hbound hprog =>
    ⟨launch_sound c m prog sched hc hm hbound hprog, fun _ => .inl ⟨⟨rfl, rfl, rfl⟩, rfl⟩⟩

end Sys2Proof.Machine

/-! The views `STATUS` and `DMA_STAT` (R45, R46), field by field. -/

namespace Sys2Proof.Machine

/-- A flag's one bit is the flag. -/
theorem getElem_flagBit (b : Bool) : (flagBit b)[0] = b := by cases b <;> rfl

/-! `STATUS` is its fields laid end to end: a field is read by passing over those below it. -/

theorem status_phase (s : State) : s.status.extractLsb' 0 2 = s.phase.code := BitVec.extractLsb'_append_eq_right

theorem status_reserved (s : State) : s.status.extractLsb' 6 2 = 0b00#2 := by
  simp (disch := decide) only [State.status, BitVec.extractLsb'_append_eq_of_le]
  exact BitVec.extractLsb'_append_eq_right

theorem status_fault (s : State) : s.status.extractLsb' 8 7 = s.fault := by
  simp (disch := decide) only [State.status, BitVec.extractLsb'_append_eq_of_le]
  exact BitVec.extractLsb'_append_eq_right

theorem status_flags (s : State) :
    s.status.getLsbD 2 = s.inflight ∧ s.status.getLsbD 3 = s.initialised ∧ s.status.getLsbD 4 = (s.seq == .rest) ∧
      s.status.getLsbD 5 = s.dmaDone ∧ s.status.getLsbD 15 = false := by
  simp only [State.status, BitVec.getLsbD_append]
  simp [getElem_flagBit]

theorem dmaStat_flags (s : State) : s.dmaStat.getLsbD 0 = s.dmaDone ∧ s.dmaStat.getLsbD 1 = s.dmaActive := by
  simp only [State.dmaStat, BitVec.getLsbD_append]
  simp [getElem_flagBit]

/-- Settles O32, field by field. -/
theorem statusViewsHaveTheirFields : Obligations.StatusViewsHaveTheirFields := by
  intro s
  obtain ⟨hfly, hinit, hready, hdone, hzero⟩ := status_flags s
  rw [status_phase, status_reserved, status_fault]
  exact ⟨fun h => by rw [h]; rfl, fun h => by rw [h]; rfl, fun h => by rw [h]; rfl, hfly, hinit,
    by rw [hready, beq_iff_eq], hdone, rfl, rfl, hzero, dmaStat_flags s⟩

end Sys2Proof.Machine

/-! Host memory and the DMA (spec 20_memory.md): who writes a byte of `Mem`, what a data byte does, the DMA's turn, and
the burst one `SP_DMA` loads. -/

namespace Sys2Proof.Machine

/-! ## Host memory -/

theorem Seq.body_mem (q : Seq) (s : State) : (q.body s).mem = s.mem := by cases q <;> rfl

theorem stepAccept_mem (s t : State) (h : stepAccept s = .next t) : t.mem = s.mem := by
  rcases stepAccept_next s t h with
    ⟨f, info, rfl⟩ | ⟨_, rfl⟩ | ⟨_, _, rfl⟩ | ⟨_, _, _, ⟨_, rfl⟩ | ⟨_, rfl⟩⟩ | ⟨_, rfl⟩ | rfl
  all_goals rfl

/-- A step leaves `Mem` as it is, or is the host's `WRITE` and writes the byte it names (R70, R225). -/
theorem step_mem (s t : State) (h : step s = .next t) :
    t.mem = s.mem ∨
      (nextAgent s = .host ∧ s.seq = .rest ∧
        ∃ a v more, s.prog = .write a v :: more ∧ t.mem = Memory.write s.mem a v) := by
  obtain ⟨_, rfl⟩ | ⟨hen, hstep⟩ := step_next_cases s t h
  · exact .inl (takeTurn_mem s)
  rcases agentStep_cases _ _ _ hen hstep with
    ⟨ha, hseq, act, more, hprog, _, rfl⟩ | ⟨_, _, hacc⟩ | ⟨_, _, rfl⟩ | ⟨_, _, _, rfl⟩ | ⟨_, b, queue, _, rfl⟩
  · rw [takeTurn_prog] at hprog
    rw [takeTurn_seq] at hseq
    cases act with
    | write a v =>
      refine .inr ⟨ha, hseq, a, v, more, hprog, ?_⟩
      rw [hostAct, hostWrite_eq]
      split <;> simp
    | request w base => exact .inl (takeTurn_mem s)
    | readStatus => exact .inl (takeTurn_mem s)
  · exact .inl ((stepAccept_mem _ t hacc).trans (takeTurn_mem s))
  · exact .inl ((Seq.body_mem _ _).trans (takeTurn_mem s))
  · exact .inl (takeTurn_mem s)
  · exact .inl (takeTurn_mem s)

/-- Settles O47, from `step_mem` and read after write. -/
theorem onlyTheHostWritesMemory : Obligations.OnlyTheHostWritesMemory := by
  intro s t hwf h
  obtain hkept | ⟨hhost, _, a, v, more, hprog, hwrite⟩ := step_mem s t h
  · exact ⟨fun _ => hkept, fun x hne => absurd (congrArg (Memory.read · x) hkept) hne⟩
  · refine ⟨fun hother => absurd hhost hother, fun x hne => ⟨hhost, v, more, ?_⟩⟩
    rw [hwrite, Memory.read_write s.mem a x v hwf.1] at hne
    by_cases hx : x = a
    · rw [hx, hprog]
    · simp [hx] at hne

/-! ## The wire and the DMA -/

/-- Settles O13: `exec` of a data byte is its transmission. -/
theorem dataBytesLeaveUnchanged : Obligations.DataBytesLeaveUnchanged :=
  fun s d => ⟨s.panel.observe (.tx s.cs s.dc d), rfl⟩

/-- An enabled agent's turn is its step. -/
theorem step_of_enabled (s : State) (a : Agent) (later : List Agent) (hsched : s.sched = a :: later)
    (hen : enabled a s = true) : step s = agentStep a { s with sched := later } := by
  rw [step_cons s a later hsched]
  exact agentTurn_of_enabled a { s with sched := later } (by cases a <;> exact hen)

/-- The DMA's turn with a burst loaded and `D.src` an address of `Mem` (R222). -/
theorem step_dma_of_fits (s : State) (later : List Agent) (hsched : s.sched = .dma :: later) (hact : s.dmaActive = true)
    (hrem : 0 < s.dmaRemaining) (hfits : s.cfg.fitsAddr s.dmaSrc) :
    step s = .next (dmaMove (Memory.read s.mem s.dmaSrc) { s with sched := later }) := by
  rw [step_of_enabled s .dma later hsched ((enabled_dma s).mpr ⟨hact, hrem⟩)]
  exact dmaStep_of_fits { s with sched := later } hfits

/-- Settles O26: the DMA holds, moves the byte at `D.src`, or has no such byte. -/
theorem dmaMovesOneByte : Obligations.DmaMovesOneByte := by
  intro s later hsched
  refine ⟨fun hidle => ?_, fun hact hrem hfits => ?_, fun hact hrem hbeyond => ?_⟩
  · rw [step_cons s .dma later hsched, agentTurn_of_disabled]
    rcases hidle with hact | hrem <;> simp [enabled, State.dmaBusy, *]
  · have hlast : s.dmaRemaining - 1 = 0 ↔ s.dmaRemaining = 1 := by omega
    rw [step_dma_of_fits s later hsched hact hrem hfits, dmaMove_eq]
    simp only [hlast]
  · rw [step_of_enabled s .dma later hsched ((enabled_dma s).mpr ⟨hact, hrem⟩)]
    exact dmaStep_of_beyond { s with sched := later } (Nat.not_lt.mpr hbeyond)

/-! ## Runs -/

/-- A run of one more step takes it and goes on. -/
theorem run_succ_of_next (n : Nat) (s u : State) (h : step s = .next u) :
    Sys2Proof.core.run (n + 1) s = Sys2Proof.core.run n u := by
  have hcore : Sys2Proof.core.step s = .next u := h
  simp only [Host.Core.run, hcore]

/-- A run of one more step that answers a state took a step that did. -/
theorem run_succ_next (n : Nat) (s t : State) (h : Sys2Proof.core.run (n + 1) s = .next t) :
    ∃ u, step s = .next u ∧ Sys2Proof.core.run n u = .next t := by
  simp only [Host.Core.run] at h
  split at h
  case h_1 u hstep => exact ⟨u, hstep, h⟩
  all_goals cases h

/-- What every step keeps, every run keeps. -/
theorem run_keeps (P : State → Prop) (hkeeps : ∀ s t, P s → step s = .next t → P t) (n : Nat) (s t : State) (hs : P s)
    (h : Sys2Proof.core.run n s = .next t) : P t := by
  induction n generalizing s with
  | zero => cases h; exact hs
  | succ n ih =>
    obtain ⟨u, hstep, hrun⟩ := run_succ_next n s t h
    exact ih u (hkeeps s u hs hstep) hrun

/-! ## The burst -/

/-- The events of reading the `n` bytes of `m` from `a` on, in increasing order (R54, R74). -/
def burstReads (m : Memory) (a n : Nat) : List Event :=
  (List.range n).map fun i => .dmaRd (a + i) (Memory.read m (a + i))

theorem burstReads_cons (m : Memory) (a n : Nat) :
    burstReads m a (n + 1) = .dmaRd a (Memory.read m a) :: burstReads m (a + 1) n := by
  simp [burstReads, List.range_succ_eq_map, Nat.add_assoc, Nat.add_comm 1]

theorem burstReads_snoc (m : Memory) (a n : Nat) :
    burstReads m a (n + 1) = burstReads m a n ++ [.dmaRd (a + n) (Memory.read m (a + n))] := by
  simp [burstReads, List.range_succ]

theorem memSlice_cons (m : Memory) (a n : Nat) : memSlice m a (n + 1) = Memory.read m a :: memSlice m (a + 1) n := by
  simp [memSlice, List.range_succ_eq_map, Nat.add_assoc, Nat.add_comm 1]

theorem memSlice_snoc (m : Memory) (a n : Nat) : memSlice m a (n + 1) = memSlice m a n ++ [Memory.read m (a + n)] := by
  simp [memSlice, List.range_succ]

/-- As many DMA turns as bytes remain read them all, in increasing order, and end the burst (R222). -/
theorem run_dma_remaining (n : Nat) (s : State) (hs : s.Sound) (hact : s.dmaActive = true) (hrem : s.dmaRemaining = n)
    (hsched : s.sched = List.replicate n .dma) :
    Sys2Proof.core.run n s = .next
      { s with
        sched := [], trace := s.trace ++ burstReads s.mem s.dmaSrc n, txq := s.txq ++ memSlice s.mem s.dmaSrc n,
        dmaSrc := s.dmaSrc + n, dmaRemaining := 0, dmaDone := true } := by
  induction n generalizing s with
  | zero =>
    have hdone : s.dmaDone = true := (hs.completion hact).mpr hrem
    have hnone : s.sched = [] := hsched
    simp only [Host.Core.run, burstReads, memSlice, List.range_zero, List.map_nil, List.append_nil, Nat.add_zero]
    rw [← hdone, ← hrem, ← hnone]
  | succ n ih =>
    have hfits : s.cfg.fitsAddr s.dmaSrc := by have := hs.burstFits; unfold Config.fitsAddr; omega
    have hstep := step_dma_of_fits s _ hsched hact (by omega) hfits
    rw [run_succ_of_next n s _ hstep, ih _ (stepKeepsSound s _ hs hstep) hact (by simp [dmaMove_eq, hrem]) rfl]
    simp [dmaMove_eq, burstReads_cons, memSlice_cons, Nat.add_assoc, Nat.add_comm 1]

/-- Settles O27: the engine's turn loads the descriptor, and `run_dma_remaining` says what the DMA does with it. -/
theorem burstReadsItsSubpageInOrder : Obligations.BurstReadsItsSubpageInOrder := by
  intro s hs hseq
  have hstep := step_engine_body { s with sched := .engine :: List.replicate s.cfg.kSubpageSize .dma } .spDma _ rfl hseq
    nofun nofun (by simp [State.awaitHolds, hseq])
  have hsound := stepKeepsSound _ _ (hs.of_frame _ _ rfl) hstep
  unfold runUnder
  rw [List.length_cons, List.length_replicate, run_succ_of_next _ _ _ hstep,
    run_dma_remaining s.cfg.kSubpageSize _ hsound rfl rfl rfl]
  rfl

end Sys2Proof.Machine

/-! The double-buffered transfer (R83, R189, R228): a `SEND_PAGE`, host writes outside its page, a `FLUSH`, in every
interleaving. The proof is one invariant, `Transfer.At`, by sequencer position: how far the transfer has come, and what
the trace and the queue together show by then. -/

namespace Sys2Proof.Machine

/-! ## What a state shows -/

/-- What the transfer is judged by. -/
structure Shown where
  /-- The bytes the panel has received, then those queued for it with the mode select they are to leave with. -/
  stream : List (DcMode × Byte)
  /-- The DMA's reads. -/
  reads : List Event
  /-- How often chip-select was deasserted. -/
  releases : Nat
  /-- `E.fault`. -/
  fault : BitVec 7

/-- What the trace, the queue and `E.fault` show. -/
def State.shown (s : State) : Shown :=
  { stream := panelStream s.trace ++ s.txq.map fun b => (s.dc, b)
    reads := s.trace.filter Event.isDmaRd
    releases := (s.trace.filter fun e => e == .cs .deasserted).length
    fault := s.fault }

/-- An event that reaches the panel with no byte, is no read of the DMA's, and lets chip-select be. -/
def Event.silent (e : Event) : Bool := e.toPanel.isNone && !e.isDmaRd && !(e == .cs .deasserted)

/-- Silent events show nothing, and the mode select may change while nothing is queued. -/
theorem State.shown_of_silent (s t : State) (es : List Event) (htrace : t.trace = s.trace ++ es)
    (hes : ∀ e ∈ es, e.silent = true) (hq : t.txq = s.txq) (hdc : t.dc = s.dc ∨ s.txq = []) (hf : t.fault = s.fault) :
    t.shown = s.shown := by
  have hnone (e : Event) (he : e ∈ es) : e.toPanel = none ∧ e.isDmaRd = false ∧ (e == .cs .deasserted) = false := by
    simpa [Event.silent, and_assoc] using hes e he
  have hpanel : es.filterMap Event.toPanel = [] := List.filterMap_eq_nil_iff.mpr fun e he => (hnone e he).1
  have hreads : es.filter Event.isDmaRd = [] := List.filter_eq_nil_iff.mpr fun e he => by simp [hnone e he]
  have hcs : (es.filter fun e => e == .cs .deasserted) = [] :=
    List.filter_eq_nil_iff.mpr fun e he => by simp [hnone e he]
  have hqueue : (s.txq.map fun b => (t.dc, b)) = s.txq.map fun b => (s.dc, b) := by
    rcases hdc with hdc | hempty
    · rw [hdc]
    · simp [hempty]
  simp [State.shown, htrace, hq, hf, hqueue, hreads, hcs, panelStream, hpanel]

/-- A byte that leaves with chip-select Asserted goes from the queue to the panel. -/
theorem State.shown_transmit (s : State) (b : Byte) (queue : List Byte) (hq : s.txq = b :: queue)
    (hcs : s.cs = .asserted) : (State.transmit b { s with txq := queue }).shown = s.shown := by
  simp [State.shown, State.transmit, panelStream, hq, hcs, Event.toPanel, Event.isDmaRd]

theorem State.shown_dmaMove (s : State) (b : Byte) :
    (dmaMove b s).shown = { s.shown with
      stream := s.shown.stream ++ [(s.dc, b)], reads := s.shown.reads ++ [.dmaRd s.dmaSrc b] } := by
  simp [State.shown, dmaMove_eq, panelStream, Event.toPanel, Event.isDmaRd]

/-- `SP_CMD` on an empty queue shows its command bytes (R174). -/
theorem State.shown_stepSpCmd (s : State) (hempty : s.txq = []) :
    (stepSpCmd s).shown = { s.shown with
      stream := s.shown.stream ++ (encodeAddr s.reqPage (columnOf s.cfg s.reqSub)).bytes.map (DcMode.cmd, ·) } := by
  simp [State.shown, stepSpCmd, State.writeDc, panelStream, Event.toPanel, Event.isDmaRd, hempty]

/-- `FL_CS` shows chip-select let go (R184). -/
theorem State.shown_stepFlCs (s : State) :
    (stepFlCs s).shown = { s.shown with releases := s.shown.releases + 1 } := by
  simp [State.shown, stepFlCs, State.writeCs, panelStream, Event.toPanel, Event.isDmaRd]

/-! ## The requests and the writes -/

theorem op_sendPageWord (pg : BitVec 4) (sp : BitVec 8) : ReqWord.op (sendPageWord pg sp) = 0x3#4 := by
  simp (disch := decide) only [ReqWord.op, sendPageWord, BitVec.extractLsb'_append_eq_of_le]
  rfl

theorem pg_sendPageWord (pg : BitVec 4) (sp : BitVec 8) : ReqWord.pg (sendPageWord pg sp) = pg := by
  simp (disch := decide) only [ReqWord.pg, sendPageWord, BitVec.extractLsb'_append_eq_of_le]
  exact BitVec.extractLsb'_append_eq_right

theorem sp_sendPageWord (pg : BitVec 4) (sp : BitVec 8) : ReqWord.sp (sendPageWord pg sp) = sp :=
  BitVec.extractLsb'_append_eq_right

theorem decodeRequest_sendPageWord (pg : BitVec 4) (sp : BitVec 8) (base : Nat) :
    decodeRequest (sendPageWord pg sp) base = .ok (.sendPage pg sp base) := by
  simp [decodeRequest, op_sendPageWord, pg_sendPageWord, sp_sendPageWord]

theorem decodeRequest_flush (base : Nat) : decodeRequest 0x4000#16 base = .ok .flush := rfl

/-- A `WRITE` with no hazard raises nothing (R226). -/
theorem hostWrite_of_safe (a : Nat) (v : Byte) (s : State) (h : s.writeHazard a = false) :
    hostWrite a v s = { s with mem := Memory.write s.mem a v, trace := s.trace ++ [.hostWr a v] } := by
  rw [hostWrite_eq, if_neg (ne_true_of_eq_false h)]

/-! ## The transfer and its stages -/

/-- The host's writes, in order (R225). -/
def Memory.writes (m : Memory) (ws : List (Nat × Byte)) : Memory := ws.foldl (fun m w => Memory.write m w.1 w.2) m

/-- The operands of the two requests and the writes between them, with the state they start from. -/
structure Transfer where
  origin : State
  page : BitVec 4
  sub : BitVec 8
  base : Nat
  writes : List (Nat × Byte)

/-- `ACCEPT` raises nothing (R170), and the writes keep out of the page (R189). -/
structure Transfer.Legal (x : Transfer) : Prop where
  page : x.page.toNat < x.origin.cfg.kNumPages
  sub : x.sub.toNat < numSubpages x.origin.cfg
  fits : x.base + x.origin.cfg.kPageSize ≤ 2 ^ x.origin.cfg.addrW
  outside : ∀ w ∈ x.writes, w.1 < x.base ∨ x.base + x.origin.cfg.kPageSize ≤ w.1

namespace Transfer

variable (x : Transfer) (t : State)

/-- The length of the burst (R8). -/
def size : Nat := x.origin.cfg.kSubpageSize

/-- The address of the sub-page's first byte (R74). -/
def start : Nat := burstAddr x.origin.cfg x.base x.sub.toNat

/-- The addressing command (R132, R174). -/
def address : CmdBuf := encodeAddr x.page.toNat (columnOf x.origin.cfg x.sub.toNat)

/-- What is shown once the command bytes `cmds` and the first `n` bytes of the sub-page have been queued, and
chip-select has been deasserted `r` times. -/
def shown (cmds : List Byte) (n r : Nat) : Shown :=
  { stream := panelStream x.origin.trace ++ cmds.map (DcMode.cmd, ·) ++
      (memSlice x.origin.mem x.start n).map (DcMode.data, ·)
    reads := x.origin.trace.filter Event.isDmaRd ++ burstReads x.origin.mem x.start n
    releases := (x.origin.trace.filter fun e => e == .cs .deasserted).length + r
    fault := x.origin.fault }

/-- What the host has still to do once the `SEND_PAGE` is handed over: some of the writes, and the `FLUSH`. -/
def Writing : Prop :=
  ∃ rest : List (Nat × Byte), (∀ w ∈ rest, w ∈ x.writes) ∧
    t.prog = writeActions rest ++ [.request 0x4000#16 none] ∧
    Memory.writes t.mem rest = Memory.writes x.origin.mem x.writes

/-- The host has nothing left to do. -/
def Written : Prop := t.prog = [] ∧ t.mem = Memory.writes x.origin.mem x.writes

/-- The `SEND_PAGE` is in the latches (R36), where it stays until the engine is back at `REST`. -/
def Latched : Prop := t.reqWord = sendPageWord x.page x.sub ∧ t.reqBase = x.base ∧ x.Writing t

/-- The descriptor is loaded (R177): the bytes already moved have been read and queued behind the addressing command. -/
def Moving : Prop :=
  t.dmaActive = true ∧ t.cs = .asserted ∧ t.dc = .data ∧ t.dmaSrc = x.start + (x.size - t.dmaRemaining) ∧
    t.shown = x.shown x.address.bytes (x.size - t.dmaRemaining) 0

/-- The burst is marked in flight on its page (R178). -/
def InFlight : Prop := x.Moving t ∧ t.inflight = true ∧ t.xferBase = x.base

/-- Chip-select has been let go after the last byte (R184). -/
def Released : Prop :=
  x.Written t ∧ t.cs = .deasserted ∧ t.txq = [] ∧ t.dmaRemaining = 0 ∧ t.shown = x.shown x.address.bytes x.size 1

/-- Nothing has been asked of the block yet. -/
def Asking : Prop :=
  t.Quiet ∧ t.shown = x.shown [] 0 0 ∧ t.mem = x.origin.mem ∧
    t.prog = .request (sendPageWord x.page x.sub) (some x.base) ::
      (writeActions x.writes ++ [.request 0x4000#16 none])

/-- How far the transfer has come at each sequencer position. -/
def At : Prop :=
  match t.seq with
  | .rest => x.Asking t ∨ (x.InFlight t ∧ x.Writing t) ∨ (x.Released t ∧ t.inflight = false)
  | .accept =>
    (t.Quiet ∧ t.shown = x.shown [] 0 0 ∧ x.Latched t) ∨ (x.InFlight t ∧ x.Written t ∧ t.reqWord = 0x4000#16)
  | .spClk | .spCs => t.Quiet ∧ t.shown = x.shown [] 0 0 ∧ x.Latched t
  | .spCmd => t.Quiet ∧ t.shown = x.shown [] 0 0 ∧ x.Latched t ∧ t.cs = .asserted
  | .spCmdWait =>
    t.inflight = false ∧ t.dmaActive = false ∧ t.shown = x.shown x.address.bytes 0 0 ∧ x.Latched t ∧
      t.cs = .asserted
  | .spDc => t.Quiet ∧ t.shown = x.shown x.address.bytes 0 0 ∧ x.Latched t ∧ t.cs = .asserted
  | .spDma => t.Quiet ∧ t.shown = x.shown x.address.bytes 0 0 ∧ x.Latched t ∧ t.cs = .asserted ∧ t.dc = .data
  | .spFlag => x.Moving t ∧ x.Latched t
  | .flDma => x.Moving t ∧ x.Written t
  | .flDrain => x.Moving t ∧ x.Written t ∧ t.dmaRemaining = 0
  | .flCs => x.Moving t ∧ x.Written t ∧ t.dmaRemaining = 0 ∧ t.txq = []
  | .flFlag => x.Released t
  | .flRst => x.Released t ∧ t.inflight = false
  | _ => False

/-- What holds at every stage. -/
structure Kept : Prop where
  sound : t.Sound
  cfg : t.cfg = x.origin.cfg
  initialised : t.initialised = true
  grown : x.origin.trace <+: t.trace
  /-- No write touches the sub-page. -/
  bytes : ∀ i < x.size, Memory.read t.mem (x.start + i) = Memory.read x.origin.mem (x.start + i)

end Transfer

/-! ## Stages -/

section Stages

variable {x : Transfer} {t : State}

theorem Transfer.at_rest (hseq : t.seq = .rest) :
    x.At t ↔ x.Asking t ∨ (x.InFlight t ∧ x.Writing t) ∨ (x.Released t ∧ t.inflight = false) := by
  simp only [Transfer.At, hseq]

/-- A stage reads the trace, the queue and `E.fault` only through what they show and whether the queue is empty. -/
theorem Transfer.At.of_frame (ha : x.At t) (u : State)
    (h : u = { t with txq := u.txq, trace := u.trace, panel := u.panel, sched := u.sched, turn := u.turn })
    (hshown : u.shown = t.shown) (hq : t.txq = [] → u.txq = []) : x.At u := by
  rw [h] at hshown ⊢
  clear h
  unfold Transfer.At at ha ⊢
  cases hseq : t.seq
  case rest =>
    rw [hseq] at ha
    rcases ha with ⟨⟨hfly, hact, hempty⟩, hsame, hhost⟩ | ⟨⟨⟨hact, hcs, hdc, hsrc, hsame⟩, hfly⟩, hhost⟩ |
      ⟨⟨hhost, hcs, hempty, hrem, hsame⟩, hfly⟩
    · exact .inl ⟨⟨hfly, hact, hq hempty⟩, hshown.trans hsame, hhost⟩
    · exact .inr (.inl ⟨⟨⟨hact, hcs, hdc, hsrc, hshown.trans hsame⟩, hfly⟩, hhost⟩)
    · exact .inr (.inr ⟨⟨hhost, hcs, hq hempty, hrem, hshown.trans hsame⟩, hfly⟩)
  case accept =>
    rw [hseq] at ha
    rcases ha with ⟨⟨hfly, hact, hempty⟩, hsame, hhost⟩ | ⟨⟨⟨hact, hcs, hdc, hsrc, hsame⟩, hfly⟩, hhost⟩
    · exact .inl ⟨⟨hfly, hact, hq hempty⟩, hshown.trans hsame, hhost⟩
    · exact .inr ⟨⟨⟨hact, hcs, hdc, hsrc, hshown.trans hsame⟩, hfly⟩, hhost⟩
  all_goals
    simp_all [State.Quiet, Transfer.Moving, Transfer.Released, Transfer.Latched, Transfer.Writing, Transfer.Written]

/-- While a byte is queued, chip-select is Asserted (R287). -/
theorem Transfer.At.cs_of_queued (ha : x.At t) (hq : t.txq ≠ []) : t.cs = .asserted := by
  unfold Transfer.At at ha
  split at ha <;> simp_all [State.Quiet, Transfer.Asking, Transfer.InFlight, Transfer.Moving, Transfer.Released]

/-! ### The DMA and the host -/

/-- A byte moves only in the burst, and it is the sub-page's next (R222). -/
theorem Transfer.Moving.dma (hm : x.Moving t) (hk : x.Kept t) (hrem : 0 < t.dmaRemaining) :
    x.Moving (dmaMove (Memory.read t.mem t.dmaSrc) t) := by
  obtain ⟨hact, hcs, hdc, hsrc, hshown⟩ := hm
  have hbound : t.dmaRemaining ≤ x.size := hk.sound.burstBound.trans_eq (by rw [hk.cfg]; rfl)
  have hnext : x.size - (t.dmaRemaining - 1) = x.size - t.dmaRemaining + 1 := by omega
  have hbyte := hk.bytes (x.size - t.dmaRemaining) (by omega)
  refine ⟨hact, hcs, hdc, ?_, ?_⟩
  · simp only [dmaMove_eq]; omega
  · rw [State.shown_dmaMove, hshown, hdc, hsrc, hbyte]
    simp [dmaMove_eq, hnext, Transfer.shown, memSlice_snoc, burstReads_snoc]

/-- Where the DMA may step, the burst is moving. -/
theorem Transfer.At.dma (ha : x.At t) (hk : x.Kept t) (hact : t.dmaActive = true) (hrem : 0 < t.dmaRemaining) :
    x.At (dmaMove (Memory.read t.mem t.dmaSrc) t) := by
  have hseq' : (dmaMove (Memory.read t.mem t.dmaSrc) t).seq = t.seq := rfl
  revert ha
  unfold Transfer.At
  rw [hseq']
  cases t.seq
  case rest =>
    rintro (⟨⟨_, hidle, _⟩, _⟩ | ⟨⟨hm, hfly⟩, hhost⟩ | ⟨⟨_, _, _, hnone, _⟩, _⟩)
    · rw [hact] at hidle; cases hidle
    · exact .inr (.inl ⟨⟨hm.dma hk hrem, hfly⟩, hhost⟩)
    · exact absurd hnone hrem.ne'
  case accept =>
    rintro (⟨⟨_, hidle, _⟩, _⟩ | ⟨⟨hm, hfly⟩, hhost⟩)
    · rw [hact] at hidle; cases hidle
    · exact .inr ⟨⟨hm.dma hk hrem, hfly⟩, hhost⟩
  case spFlag | flDma => exact fun ⟨hm, hhost⟩ => ⟨hm.dma hk hrem, hhost⟩
  all_goals
    intro ha
    simp_all [Transfer.Released]

/-- A `WRITE` still to come is one of the transfer's, and outside its page. -/
theorem Transfer.At.write_outside (ha : x.At t) (hx : x.Legal) (hseq : t.seq = .rest) (a : Nat) (v : Byte)
    (more : List Action) (hprog : t.prog = .write a v :: more) :
    a < x.base ∨ x.base + x.origin.cfg.kPageSize ≤ a := by
  rcases (Transfer.at_rest hseq).mp ha with ⟨_, _, _, hall⟩ | ⟨_, rest, hsub, hrest, _⟩ | ⟨⟨⟨hnone, _⟩, _⟩, _⟩
  · rw [hprog] at hall; cases hall
  · cases rest with
    | nil => rw [hprog] at hrest; cases hrest
    | cons w rest =>
      rw [hprog] at hrest
      cases hrest
      exact hx.outside w (hsub w List.mem_cons_self)
  · rw [hprog] at hnone; cases hnone

/-- At `REST` the host hands over the `SEND_PAGE`, makes a write, or hands over the `FLUSH`. -/
theorem Transfer.At.host (ha : x.At t) (hk : x.Kept t) (hx : x.Legal) (act : Action) (more : List Action)
    (hseq : t.seq = .rest) (hprog : t.prog = act :: more) : x.At (hostAct act { t with prog := more }) := by
  rcases (Transfer.at_rest hseq).mp ha with
    ⟨hquiet, hshown, hmem, hall⟩ | ⟨⟨hm, hfly, hbase⟩, rest, hsub, hrest, hmem⟩ | ⟨⟨⟨hnone, _⟩, _⟩, _⟩
  · obtain ⟨rfl, rfl⟩ := List.cons.inj (hprog.symm.trans hall)
    exact .inl ⟨hquiet, hshown, rfl, rfl, x.writes, fun _ hw => hw, rfl, by rw [← hmem]; rfl⟩
  · cases rest with
    | nil =>
      obtain ⟨rfl, rfl⟩ := List.cons.inj (hprog.symm.trans hrest)
      exact .inr ⟨⟨hm, hfly, hbase⟩, ⟨rfl, hmem⟩, rfl⟩
    | cons w rest =>
      obtain ⟨rfl, rfl⟩ := List.cons.inj (hprog.symm.trans hrest)
      have hsafe : t.writeHazard w.1 = false := by
        have hout := ha.write_outside hx hseq w.1 w.2 _ hprog
        simp only [State.writeHazard, inPageRegion, hbase, hk.cfg, Bool.and_eq_false_iff, decide_eq_false_iff_not]
        omega
      have hwrite := hostWrite_of_safe w.1 w.2
        { t with prog := writeActions rest ++ [.request 0x4000#16 none] } hsafe
      change x.At (hostWrite w.1 w.2 { t with prog := writeActions rest ++ [.request 0x4000#16 none] })
      rw [hwrite, Transfer.at_rest (by exact hseq)]
      obtain ⟨hact, hcs, hdc, hsrc, hshown⟩ := hm
      refine .inr (.inl ⟨⟨⟨hact, hcs, hdc, hsrc, ?_⟩, hfly, hbase⟩, rest, ?_, rfl, hmem⟩)
      · rw [← hshown]
        exact State.shown_of_silent t _ [.hostWr w.1 w.2] rfl
          (by simp [Event.silent, Event.toPanel, Event.isDmaRd]) rfl (.inl rfl) rfl
      · exact fun y hy => hsub y (List.mem_cons_of_mem w hy)
  · rw [hprog] at hnone; cases hnone

/-! ### The engine -/

/-- `ACCEPT` takes the `SEND_PAGE` with nothing in flight (R170), and the `FLUSH` with the burst in flight (R181). -/
theorem Transfer.At.accept (ha : x.At t) (hk : x.Kept t) (hx : x.Legal) (hseq : t.seq = .accept) (u : State)
    (h : stepAccept t = .next u) : x.At u := by
  simp only [Transfer.At, hseq] at ha
  rcases ha with ⟨⟨hfly, hidle⟩, hshown, hlatched⟩ | ⟨⟨hm, hfly, _⟩, hhost, hword⟩
  · obtain ⟨hword, hbase, _⟩ := id hlatched
    have hargs : argsInRange t.cfg x.page.toNat x.sub.toNat = true := by
      simp [argsInRange, hk.cfg, hx.page, hx.sub]
    have hpage : pageOverruns t.cfg x.base = false := by
      have := hx.fits
      simp only [pageOverruns, hk.cfg, decide_eq_false_iff_not]
      omega
    have : u = acceptSendPage t := by
      simpa [stepAccept, hword, hbase, decodeRequest_sendPageWord, exec, execSendPage, hk.initialised, hargs, hpage,
        hfly] using h.symm
    subst this
    exact ⟨⟨hfly, hidle⟩, hshown, hlatched⟩
  · have : u = { t with seq := .flDma } := by
      simpa [stepAccept, hword, decodeRequest_flush, exec, execFlush, hfly] using h.symm
    subst this
    exact ⟨hm, hhost⟩

/-- The engine past `ACCEPT`, where its `await` holds. -/
theorem Transfer.At.engine (ha : x.At t) (hk : x.Kept t) (hrest : t.seq ≠ .rest) (hacc : t.seq ≠ .accept)
    (hawait : t.awaitHolds = true) : x.At (t.seq.body t) := by
  revert ha hawait
  unfold Transfer.At State.awaitHolds
  cases hq : t.seq
  case rest => exact absurd hq hrest
  case accept => exact absurd hq hacc
  case spClk =>
    intro ⟨hquiet, hshown, hlatched⟩ _
    refine ⟨hquiet, ?_, hlatched⟩
    exact (State.shown_of_silent t (stepSpClk t) [.clk .cmd] rfl (by decide) rfl (.inl rfl) rfl).trans hshown
  case spCs =>
    intro ⟨hquiet, hshown, hlatched⟩ _
    refine ⟨hquiet, ?_, hlatched, rfl⟩
    exact (State.shown_of_silent t (stepSpCs t) [.cs .asserted] rfl (by decide) rfl (.inl rfl) rfl).trans hshown
  case spCmd =>
    intro ⟨⟨hfly, hidle, hempty⟩, hshown, hlatched, hcs⟩ _
    refine ⟨hfly, hidle, ?_, hlatched, hcs⟩
    obtain ⟨hword, _, _⟩ := hlatched
    have hbuf : encodeAddr t.reqPage (columnOf t.cfg t.reqSub) = x.address := by
      rw [State.reqPage, State.reqSub, hword, pg_sendPageWord, sp_sendPageWord, hk.cfg, Transfer.address]
    change (stepSpCmd t).shown = _
    rw [State.shown_stepSpCmd t hempty, hshown, hbuf]
    simp [Transfer.shown, memSlice]
  case spCmdWait =>
    intro ⟨hfly, hidle, hshown, hlatched, hcs⟩ hdrained
    exact ⟨⟨hfly, hidle, (drained_iff t).mp hdrained⟩, hshown, hlatched, hcs⟩
  case spDc =>
    intro ⟨⟨hfly, hidle, hempty⟩, hshown, hlatched, hcs⟩ _
    refine ⟨⟨hfly, hidle, hempty⟩, ?_, hlatched, hcs, rfl⟩
    exact (State.shown_of_silent t (stepSpDc t) [.dc .data] rfl (by decide) rfl (.inr hempty) rfl).trans hshown
  case spDma =>
    intro ⟨_, hshown, hlatched, hcs, hdc⟩ _
    obtain ⟨hword, hbase, _⟩ := id hlatched
    have hsrc : burstAddr t.cfg t.reqBase t.reqSub = x.start := by
      rw [State.reqSub, hword, sp_sendPageWord, hbase, hk.cfg, Transfer.start]
    have hnone : x.size - t.cfg.kSubpageSize = 0 := by rw [hk.cfg, Transfer.size, Nat.sub_self]
    refine ⟨⟨rfl, hcs, hdc, ?_, ?_⟩, hlatched⟩
    · simp [Seq.body, stepSpDma, hsrc, hnone]
    · change t.shown = x.shown _ (x.size - t.cfg.kSubpageSize) 0
      rw [hnone, hshown]
  case spFlag => exact fun ⟨hm, _, hbase, hhost⟩ _ => .inr (.inl ⟨⟨hm, rfl, hbase⟩, hhost⟩)
  case flDma =>
    intro ⟨hm, hhost⟩ hdone
    exact ⟨hm, hhost, (hk.sound.completion hm.1).mp hdone⟩
  case flDrain => exact fun ⟨hm, hhost, hrem⟩ hdrained => ⟨hm, hhost, hrem, (drained_iff t).mp hdrained⟩
  case flCs =>
    intro ⟨⟨_, _, _, _, hshown⟩, hhost, hrem, hempty⟩ _
    refine ⟨hhost, rfl, hempty, hrem, ?_⟩
    change (stepFlCs t).shown = _
    rw [State.shown_stepFlCs, hshown, hrem]
    rfl
  case flFlag => exact fun hreleased _ => ⟨hreleased, rfl⟩
  case flRst =>
    intro ⟨⟨hhost, hcs, hempty, _, hshown⟩, hfly⟩ _
    exact .inr (.inr ⟨⟨hhost, hcs, hempty, rfl, hshown⟩, hfly⟩)
  all_goals exact fun ha => ha.elim

/-! ### A step of any agent -/

/-- Every step carries the transfer on, whoever takes it. -/
theorem Transfer.At.step (ha : x.At t) (hk : x.Kept t) (hx : x.Legal) (u : State) (h : step t = .next u) : x.At u := by
  have ha' : x.At (takeTurn t) := ha.of_frame _ (by rw [takeTurn_eq]) (by simp [State.shown]) (by simp)
  have hk' : x.Kept (takeTurn t) :=
    ⟨takeTurn_sound t hk.sound, by simp [hk.cfg], by simp [hk.initialised], by simp [hk.grown], by simpa using hk.bytes⟩
  obtain ⟨_, rfl⟩ | ⟨hen, hstep⟩ := step_next_cases t u h
  · exact ha'
  rcases agentStep_cases _ _ _ hen hstep with
    ⟨_, hseq, act, more, hprog, _, rfl⟩ | ⟨_, hseq, hacc⟩ | ⟨hagent, hseq, rfl⟩ | ⟨_, hact, hrem, rfl⟩ |
      ⟨_, b, queue, hqueue, rfl⟩
  · exact ha'.host hk' hx act more hseq hprog
  · exact ha'.accept hk' hx hseq u hacc
  · rw [hagent, enabled_engine] at hen
    exact ha'.engine hk' hen.1 hseq hen.2
  · exact ha'.dma hk' hact hrem
  · have hcs := ha'.cs_of_queued (by rw [hqueue]; nofun)
    exact ha'.of_frame _ rfl (State.shown_transmit _ b queue hqueue hcs) fun hempty =>
      absurd (hqueue.symm.trans hempty) nofun

/-- Of a step's writes to memory only a host `WRITE` matters, and it is outside the page. -/
theorem Transfer.Kept.step (hk : x.Kept t) (ha : x.At t) (hx : x.Legal) (u : State) (h : step t = .next u) :
    x.Kept u where
  sound := stepKeepsSound t u hk.sound h
  cfg := (latchesHaveTheirWriters t u h).1.trans hk.cfg
  initialised := (stickyBitsStaySet t u h).2.1 hk.initialised
  grown := by
    obtain ⟨es, hes⟩ := traceOnlyGrows t u h
    exact hes ▸ hk.grown.trans ⟨es, rfl⟩
  bytes := fun i hi => by
    rw [← hk.bytes i hi]
    obtain hmem | ⟨_, hseq, a, v, more, hprog, hwrite⟩ := step_mem t u h
    · rw [hmem]
    · have hout := ha.write_outside hx hseq a v more hprog
      have hin := burst_in_page x.origin.cfg x.sub.toNat hx.sub
      have hne : x.start + i ≠ a := by
        simp only [Transfer.start, burstAddr]
        simp only [Transfer.size] at hi
        omega
      rw [hwrite, Memory.read_write t.mem a _ v hk.sound.memory.1, if_neg hne]

end Stages

/-- Settles O57: `Transfer.At` holds at the start and along the run, and at `REST` with no action left it says that the
transfer is over. -/
theorem doubleBufferedBurstIsExact : Obligations.DoubleBufferedBurstIsExact := by
  intro s t pg sp base ws agents start k hs hquiet hseq hinit hpg hsp hfits hws hk hstart hprog hrun hdone hrest
  subst hstart hk
  let x : Transfer := ⟨s, pg, sp, base, ws⟩
  have hx : x.Legal := ⟨hpg, hsp, hfits, hws⟩
  obtain ⟨_, _, hnone⟩ := id hquiet
  have hkept : x.Kept { s with sched := agents } :=
    ⟨hs.of_frame _ _ rfl, rfl, hinit, ⟨[], List.append_nil _⟩, fun _ _ => rfl⟩
  have hasking : x.Asking { s with sched := agents } := by
    refine ⟨hquiet, ?_, rfl, hprog⟩
    simp [State.shown, Transfer.shown, hnone, memSlice, burstReads, x]
  obtain ⟨hk, ha⟩ : x.Kept t ∧ x.At t :=
    run_keeps (fun u => x.Kept u ∧ x.At u) (fun u v ⟨hk, ha⟩ hv => ⟨hk.step ha hx v hv, ha.step hk hx v hv⟩)
      agents.length _ t ⟨hkept, (Transfer.at_rest hseq).mpr (.inl hasking)⟩ hrun
  rcases (Transfer.at_rest hrest).mp ha with
    ⟨_, _, _, hall⟩ | ⟨_, rest, _, hleft, _⟩ | ⟨⟨hhost, hcs, hempty, hrem, hshown⟩, hfly⟩
  · rw [hdone] at hall; cases hall
  · simp [hdone] at hleft
  · simp only [State.shown, Transfer.shown, hempty, List.map_nil, List.append_nil, Shown.mk.injEq] at hshown
    obtain ⟨hstream, hreads, hreleases, hfault⟩ := hshown
    obtain ⟨es, hes⟩ := hk.grown
    refine ⟨hstream, hreads, ⟨es, hes.symm, ?_⟩, hfly, hcs, hempty, hrem, hfault, hhost.2⟩
    rw [← hes, List.filter_append, List.length_append] at hreleases
    exact Nat.add_left_cancel hreleases

end Sys2Proof.Machine

/-! The encodings: a form decodes to an instruction exactly when it is that instruction's encoded form. The round trips,
the agreement with the opcode table and the list of ILLEGAL words come from that. -/

namespace Sys2Proof.Machine

/-! ## Fields of words and bytes (R101 to R103, R110) -/

/-- A word is its `op` and the 12 bits below it. -/
theorem op_append_low (w : ReqWord) : ReqWord.op w ++ ReqWord.low w = w :=
  (BitVec.extractLsb'_append_extractLsb'_eq_extractLsb' rfl).trans BitVec.extractLsb'_eq_self

/-- A `SEND_PAGE` word is made of its own fields (R111). -/
theorem sendPageWord_of_op (w : ReqWord) (h : ReqWord.op w = 0x3#4) :
    sendPageWord (ReqWord.pg w) (ReqWord.sp w) = w := by
  have hhigh : ReqWord.op w ++ ReqWord.pg w = w.extractLsb' 8 8 :=
    BitVec.extractLsb'_append_extractLsb'_eq_extractLsb' rfl
  rw [sendPageWord, ← h, hhigh]
  exact (BitVec.extractLsb'_append_extractLsb'_eq_extractLsb' rfl).trans BitVec.extractLsb'_eq_self

theorem op_eq_iff (w : ReqWord) (k : BitVec 4) : ReqWord.op w = k ↔ w.toNat / 4096 = k.toNat := by
  have hop : (ReqWord.op w).toNat = w.toNat / 4096 := by
    simp [ReqWord.op, Nat.shiftRight_eq_div_pow]
    omega
  rw [← BitVec.toNat_inj, hop]

theorem low_eq_zero_iff (w : ReqWord) : ReqWord.low w = 0#12 ↔ w.toNat % 4096 = 0 := by
  simp [← BitVec.toNat_inj, ReqWord.low]

theorem op_and_mask (w : ReqWord) : ReqWord.op (w &&& 0xF000#16) = ReqWord.op w := by
  simp only [ReqWord.op, BitVec.extractLsb'_and]
  exact BitVec.and_allOnes

theorem high_and_mask (b : Byte) : Byte.high (b &&& 0xF0#8) = Byte.high b := by
  simp only [Byte.high, BitVec.extractLsb'_and]
  exact BitVec.and_allOnes

/-! ## Decoding and encoding are inverse (R114) -/

theorem decodeBare_eq_ok_iff (w : ReqWord) (i j : Instr) :
    decodeBare w i = .ok j ↔ ReqWord.low w = 0#12 ∧ i = j := by
  unfold decodeBare
  split <;> simp [*]

/-- A command byte is never read as data. -/
theorem decodeCommand_ne_data (b d : Byte) : decodeCommand b ≠ .ok (.data d) := by
  unfold decodeCommand
  split_ifs <;> nofun

/-- A panel byte that decodes, with its mode select, is the encoded form of its instruction. -/
theorem encode_of_decodePanelByte (dc : DcMode) (b : Byte) (i : Instr) (h : decodePanelByte dc b = .ok i) :
    encode i = .panel dc b := by
  cases dc with
  | data => cases h; rfl
  | cmd =>
    have hb := panelByte_of_decodePanelByte .cmd b i h
    cases i with
    | data d => exact absurd h (decodeCommand_ne_data b d)
    | _ => simp_all [Instr.panelByte, encode]

/-- Away from the nibble of the two display commands, the high nibble decides (R101 to R103). -/
theorem decodeCommand_of_high_ne (b : Byte) (h : Byte.high b ≠ 0xA#4) :
    decodeCommand b =
      if Byte.high b = 0x1#4 then .ok (.setColHi (Byte.low b))
      else if Byte.high b = 0x0#4 then .ok (.setColLo (Byte.low b))
      else if Byte.high b = 0xB#4 then .ok (.setPage (Byte.low b))
      else .error .opaqueCommand := by
  have hon : b ≠ 0xAF#8 := fun hb => h (hb ▸ rfl)
  have hoff : b ≠ 0xAE#8 := fun hb => h (hb ▸ rfl)
  simp only [decodeCommand, hon, hoff, if_false]

theorem decodePanelByte_eq_ok_iff (dc : DcMode) (b : Byte) (i : Instr) :
    decodePanelByte dc b = .ok i ↔ encode i = .panel dc b := by
  refine ⟨encode_of_decodePanelByte dc b i, fun h => ?_⟩
  cases i with
  | setColHi | setColLo | setPage =>
    cases h
    simp [decodePanelByte, decodeCommand_of_high_ne, setColHiByte, setColLoByte, setPageByte]
  | displayOn | displayOff | data => cases h; rfl
  | _ => cases h

/-- The requests without operand: `w` is their `op` with zeros below it (R111, R112). -/
theorem encode_of_decodeBare (w : ReqWord) (base : Nat) (op : BitVec 4) (i j : Instr) (hop : ReqWord.op w = op)
    (hform : encode j = .request (op ++ 0#12) none) (hne : op ≠ 0x3#4) (h : decodeBare w j = .ok i) :
    encode i = .request w (if ReqWord.takesOperand w then some base else none) := by
  obtain ⟨hlow, rfl⟩ := (decodeBare_eq_ok_iff w j i).mp h
  have hw : op ++ 0#12 = w := by rw [← hop, ← hlow, op_append_low]
  simp [hform, hw, ReqWord.takesOperand, hop, hne]

/-- A request word that decodes, with the operand R115 asks for, is the encoded form of its instruction. -/
theorem encode_of_decodeRequest (w : ReqWord) (base : Nat) (i : Instr) (h : decodeRequest w base = .ok i) :
    encode i = .request w (if ReqWord.takesOperand w then some base else none) := by
  unfold decodeRequest at h
  split_ifs at h with hinit hclear hsend hflush hadjust
  · exact encode_of_decodeBare w base _ i .init hinit rfl (by decide) h
  · exact encode_of_decodeBare w base _ i .clear hclear rfl (by decide) h
  · cases h
    simp [encode, ReqWord.takesOperand, hsend, sendPageWord_of_op]
  · exact encode_of_decodeBare w base _ i .flush hflush rfl (by decide) h
  · exact encode_of_decodeBare w base _ i .adjustOffset hadjust rfl (by decide) h

theorem decodeRequest_eq_ok_iff (w : ReqWord) (base : Nat) (i : Instr) :
    decodeRequest w base = .ok i ↔ encode i = .request w (if ReqWord.takesOperand w then some base else none) := by
  refine ⟨encode_of_decodeRequest w base i, fun h => ?_⟩
  cases i with
  | sendPage pg sp b =>
    simp only [encode, Encoded.request.injEq] at h
    obtain ⟨rfl, hoperand⟩ := h
    have hbase : b = base := by simpa [ReqWord.takesOperand, op_sendPageWord] using hoperand
    rw [hbase, decodeRequest_sendPageWord]
  | init | clear | flush | adjustOffset => cases h; rfl
  | _ => cases h

/-- An encoded request carries an operand exactly where R115 asks for one. -/
theorem isSome_operand_of_encode (i : Instr) (w : ReqWord) (operand : Option Nat) (h : encode i = .request w operand) :
    operand.isSome = ReqWord.takesOperand w := by
  cases i with
  | sendPage pg sp base => cases h; simp [ReqWord.takesOperand, op_sendPageWord]
  | init | clear | flush | adjustOffset => cases h; rfl
  | _ => cases h

/-- A form decodes to an instruction exactly when it is that instruction's encoded form. -/
theorem decode_eq_ok_iff (e : Encoded) (i : Instr) : decode e = .ok i ↔ encode i = e := by
  cases e with
  | panel dc b => exact decodePanelByte_eq_ok_iff dc b i
  | request w operand =>
    have hoperand := isSome_operand_of_encode i w operand
    cases operand with
    | none => cases htakes : ReqWord.takesOperand w <;> simp_all [decode, decodeRequest_eq_ok_iff]
    | some base => cases htakes : ReqWord.takesOperand w <;> simp_all [decode, decodeRequest_eq_ok_iff]

/-- Settles O2, from `decode_eq_ok_iff` at the encoded form itself. -/
theorem decodeOfEncodeIsTheInstruction : Obligations.DecodeOfEncodeIsTheInstruction :=
  fun i => (decode_eq_ok_iff (encode i) i).mpr rfl

/-- Settles O3, the other direction of `decode_eq_ok_iff`. -/
theorem encodeOfDecodeIsTheForm : Obligations.EncodeOfDecodeIsTheForm :=
  fun e i => (decode_eq_ok_iff e i).mp

/-! ## The opcode table -/

/-- Every instruction's encoded form matches the row of its mnemonic. -/
theorem fitsTable (i : Instr) : Laws.FitsTable.Statement i := by
  cases i with
  | init => exact Laws.FitsTable.init
  | clear => exact Laws.FitsTable.clear
  | sendPage pg sp base => exact Laws.FitsTable.sendPage pg sp base
  | flush => exact Laws.FitsTable.flush
  | adjustOffset => exact Laws.FitsTable.adjustOffset
  | setColHi h => exact Laws.FitsTable.setColHi h
  | setColLo l => exact Laws.FitsTable.setColLo l
  | setPage p => exact Laws.FitsTable.setPage p
  | displayOn => exact Laws.FitsTable.displayOn
  | displayOff => exact Laws.FitsTable.displayOff
  | data d => exact Laws.FitsTable.data d

/-- The mask and match of a row, as bits (opcode_table.json). -/
theorem and_ofNat_eq {n : Nat} (x : BitVec n) (mask value : Nat) (h : x.toNat &&& mask = value) :
    x &&& BitVec.ofNat n mask = BitVec.ofNat n value := by
  rw [← h, BitVec.ofNat_and, BitVec.ofNat_toNat, BitVec.setWidth_eq]

/-- A row whose mask is all ones fits its own value alone. -/
theorem eq_ofNat_of_mask_ones {n : Nat} (x : BitVec n) (value : Nat) (h : x.toNat &&& (2 ^ n - 1) = value) :
    x = BitVec.ofNat n value := by
  rw [← h, Nat.and_two_pow_sub_one_eq_mod, Nat.mod_eq_of_lt x.isLt, BitVec.ofNat_toNat, BitVec.setWidth_eq]

theorem op_of_mask (w : ReqWord) (value : Nat) (h : w.toNat &&& 0xF000 = value) :
    ReqWord.op w = ReqWord.op (BitVec.ofNat 16 value) := by
  rw [← op_and_mask, and_ofNat_eq w _ _ h]

theorem high_of_mask (b : Byte) (value : Nat) (h : b.toNat &&& 0xF0 = value) :
    Byte.high b = Byte.high (BitVec.ofNat 8 value) := by
  rw [← high_and_mask, and_ofNat_eq b _ _ h]

theorem fits_request_iff (r : Row) (w : ReqWord) (operand : Option Nat) :
    r.fits (.request w operand) = true ↔ r.dc = none ∧ w.toNat &&& r.mask = r.value := by
  simp [Row.fits]

theorem fits_panel_iff (r : Row) (dc : DcMode) (b : Byte) :
    r.fits (.panel dc b) = true ↔ r.dc = some dc ∧ b.toNat &&& r.mask = r.value := by
  simp [Row.fits]

/-- A word some row fits decodes: the five request rows one by one. -/
theorem decodeRequest_of_fits (r : Row) (hr : r ∈ opcodeTable) (w : ReqWord) (base : Nat)
    (h : r.fits (.request w none) = true) : ∃ i, decodeRequest w base = .ok i := by
  obtain ⟨hdc, hbits⟩ := (fits_request_iff r w none).mp h
  simp only [opcodeTable, List.mem_cons, List.not_mem_nil, or_false] at hr
  rcases hr with rfl | rfl | rfl | rfl | rfl | rfl | rfl | rfl | rfl | rfl | rfl <;> cases hdc
  · exact ⟨.init, eq_ofNat_of_mask_ones w _ hbits ▸ rfl⟩
  · exact ⟨.clear, eq_ofNat_of_mask_ones w _ hbits ▸ rfl⟩
  · have hop : ReqWord.op w = 0x3#4 := op_of_mask w _ hbits
    exact ⟨.sendPage (ReqWord.pg w) (ReqWord.sp w) base, by simp [decodeRequest, hop]⟩
  · exact ⟨.flush, eq_ofNat_of_mask_ones w _ hbits ▸ rfl⟩
  · exact ⟨.adjustOffset, eq_ofNat_of_mask_ones w _ hbits ▸ rfl⟩

/-- A panel byte some row fits decodes: the six panel rows one by one. -/
theorem decodePanelByte_of_fits (r : Row) (hr : r ∈ opcodeTable) (dc : DcMode) (b : Byte)
    (h : r.fits (.panel dc b) = true) : ∃ i, decodePanelByte dc b = .ok i := by
  obtain ⟨hdc, hbits⟩ := (fits_panel_iff r dc b).mp h
  simp only [opcodeTable, List.mem_cons, List.not_mem_nil, or_false] at hr
  rcases hr with rfl | rfl | rfl | rfl | rfl | rfl | rfl | rfl | rfl | rfl | rfl <;> cases hdc
  · have hhigh : Byte.high b = 0x1#4 := high_of_mask b _ hbits
    exact ⟨.setColHi (Byte.low b), by simp [decodePanelByte, decodeCommand_of_high_ne, hhigh]⟩
  · have hhigh : Byte.high b = 0x0#4 := high_of_mask b _ hbits
    exact ⟨.setColLo (Byte.low b), by simp [decodePanelByte, decodeCommand_of_high_ne, hhigh]⟩
  · have hhigh : Byte.high b = 0xB#4 := high_of_mask b _ hbits
    exact ⟨.setPage (Byte.low b), by simp [decodePanelByte, decodeCommand_of_high_ne, hhigh]⟩
  · exact ⟨.displayOn, eq_ofNat_of_mask_ones b _ hbits ▸ rfl⟩
  · exact ⟨.displayOff, eq_ofNat_of_mask_ones b _ hbits ▸ rfl⟩
  · exact ⟨.data b, rfl⟩

/-- Settles O4: `decode_eq_ok_iff` and the rows of the table one by one. -/
theorem decodersAgreeWithTheOpcodeTable : Obligations.DecodersAgreeWithTheOpcodeTable := by
  refine ⟨fun e i h => ?_, fun w base => ⟨fun ⟨r, hr, hfits⟩ => ?_, fun ⟨i, hi⟩ => ?_⟩,
    fun dc b => ⟨fun ⟨r, hr, hfits⟩ => ?_, fun ⟨i, hi⟩ => ?_⟩⟩
  · rw [← (decode_eq_ok_iff e i).mp h]
    exact fitsTable i
  · exact decodeRequest_of_fits r hr w base hfits
  · obtain ⟨r, hr, _, hfits⟩ := fitsTable i
    rw [(decodeRequest_eq_ok_iff w base i).mp hi] at hfits
    exact ⟨r, hr, hfits⟩
  · exact decodePanelByte_of_fits r hr dc b hfits
  · obtain ⟨r, hr, _, hfits⟩ := fitsTable i
    rw [(decodePanelByte_eq_ok_iff dc b i).mp hi] at hfits
    exact ⟨r, hr, hfits⟩

/-! ## The ILLEGAL words (R112, R113) -/

/-- The conditions of R112 and R113 in the numbers `op` and `w[11:0]`, along the branches of the decoder. -/
theorem decodeRequest_error_iff (w : ReqWord) (base : Nat) : (∃ r, decodeRequest w base = .error r) ↔
    (w.toNat / 4096 = 0 ∨ 6 ≤ w.toNat / 4096 ∨
      ((w.toNat / 4096 = 1 ∨ w.toNat / 4096 = 2 ∨ w.toNat / 4096 = 4 ∨ w.toNat / 4096 = 5) ∧ w.toNat % 4096 ≠ 0)) := by
  simp only [decodeRequest, decodeBare, op_eq_iff, low_eq_zero_iff, BitVec.toNat_ofNat, Nat.reducePow, Nat.reduceMod]
  split_ifs <;> simp <;> omega

/-- The engine's turn at `ACCEPT`, which waits for nothing (R169, R229). -/
theorem step_accept (s : State) (later : List Agent) (hsched : s.sched = .engine :: later) (hseq : s.seq = .accept) :
    step s = stepAccept { s with sched := later } := by
  have hen : enabled .engine s = true := (enabled_engine s).mpr (by simp [State.awaitHolds, hseq])
  rw [step_of_enabled s .engine later hsched hen]
  simp only [agentStep, engineStep, hseq]

theorem stepAccept_of_ok (s : State) (i : Instr) (h : decodeRequest s.reqWord s.reqBase = .ok i) :
    stepAccept s = exec i s := by
  simp only [stepAccept, h]

theorem stepAccept_of_error (s : State) (r : Reject) (h : decodeRequest s.reqWord s.reqBase = .error r) :
    stepAccept s = .next (s.dropRequest .illegalReq (.word s.reqWord)) := by
  simp only [stepAccept, h]

/-- Settles O5: the words by their `op` and low bits, and the step as the dropped request it is. -/
theorem illegalWordsAreTheReservedOnesAndAreDropped : Obligations.IllegalWordsAreTheReservedOnesAndAreDropped := by
  refine ⟨decodeRequest_error_iff, fun s later r hsched hseq hdec => ?_⟩
  rw [step_accept s later hsched hseq, stepAccept_of_error { s with sched := later } r hdec]
  rfl

end Sys2Proof.Machine

/-! Where an instruction runs (R169, R220, R224): the step that runs a latched request, a queued byte or a placed word,
and the host's turn that hands a request over. -/

namespace Sys2Proof.Machine

/-- Settles O18: the engine's turn at `ACCEPT`. -/
theorem stepRunsTheLatchedRequest : Obligations.StepRunsTheLatchedRequest := by
  intro s later i hsched hseq hdec
  rw [step_accept s later hsched hseq, stepAccept_of_ok { s with sched := later } i hdec]

/-- Settles O19: the bus's turn with a byte queued. -/
theorem stepRunsTheQueuedPanelByte : Obligations.StepRunsTheQueuedPanelByte := by
  intro s later b queue i hsched hq hdec
  have hen : enabled .bus s = true := (enabled_bus s).mpr (hq ▸ List.cons_ne_nil b queue)
  rw [step_of_enabled s .bus later hsched hen]
  simp only [agentStep, busStep, hq, hdec]

theorem toOption_eq_some_iff {ε α : Type} (x : Except ε α) (a : α) : x.toOption = some a ↔ x = .ok a := by
  cases x <;> simp [Except.toOption]

/-- Settles O21: the placed word meets the hypotheses of the two statements above. -/
theorem placedInstructionRunsNext : Obligations.PlacedInstructionRunsNext := by
  intro s nbits w i hdec
  refine ⟨fun hwide => ?_, fun hnarrow => ⟨tableDc (BitVec.ofNat 8 w), ?_⟩⟩
  · have hword : isPanelWidth nbits = false := by simp [isPanelWidth, hwide]
    simp only [decodeTableWord, hword, Bool.false_eq_true, if_false, toOption_eq_some_iff] at hdec
    simp only [State.withFetchWord, hword, Bool.false_eq_true, if_false]
    exact stepRunsTheLatchedRequest _ s.sched i rfl rfl hdec
  · have hbyte : isPanelWidth nbits = true := by simp [isPanelWidth, hnarrow]
    simp only [decodeTableWord, hbyte, if_true, toOption_eq_some_iff] at hdec
    simp only [State.withFetchWord, hbyte, if_true]
    exact stepRunsTheQueuedPanelByte _ s.sched _ s.txq i rfl rfl hdec

/-- The host's turn at `REST` with an action left (R224, R229). -/
theorem step_host (s : State) (later : List Agent) (a : Action) (more : List Action) (hsched : s.sched = .host :: later)
    (hseq : s.seq = .rest) (hprog : s.prog = a :: more) :
    step s = if a.encodable s.cfg then .next (hostAct a { s with sched := later, prog := more })
      else .refused .unencodableAction := by
  have hen : enabled .host s = true := (enabled_host s).mpr ⟨hseq, hprog ▸ List.cons_ne_nil a more⟩
  rw [step_of_enabled s .host later hsched hen]
  simp only [agentStep, hostStep, hprog]

theorem takesOperand_iff (w : ReqWord) : ReqWord.takesOperand w = true ↔ w.toNat / 4096 = 3 := by
  simp [ReqWord.takesOperand, op_eq_iff]

/-- Settles O28: the host held, or its action as `step_host` gives it. -/
theorem hostHandsOverARequest : Obligations.HostHandsOverARequest := by
  intro s later hsched
  refine ⟨fun hidle => ?_, fun w base more hseq hprog hop hfits => ?_, fun w more hseq hprog hop => ?_,
    fun a more hseq hprog henc => ?_⟩
  · rw [step_cons s .host later hsched, agentTurn_of_disabled]
    rcases hidle with hseq | hprog <;> simp [enabled, *]
  · have henc : (Action.request w (some base)).encodable s.cfg = true := by
      simp [Action.encodable, (takesOperand_iff w).mpr hop, hfits]
    rw [step_host s later _ more hsched hseq hprog, if_pos henc]
    rfl
  · have henc : (Action.request w none).encodable s.cfg = true := by
      simpa [Action.encodable, takesOperand_iff, ← Bool.not_eq_true] using hop
    rw [step_host s later _ more hsched hseq hprog, if_pos henc]
    rfl
  · rw [step_host s later a more hsched hseq hprog, if_neg (ne_true_of_eq_false henc)]

end Sys2Proof.Machine

/-! The listed words (95_test_vectors.md section 2), the bytes the command instructions put on the wire, and the
expansion of `SEND_FRAME`. -/

namespace Sys2Proof.Machine

/-! ## Words and bytes written out -/

/-- Fields side by side, by value. -/
theorem append_eq_ofNat {m n : Nat} (x : BitVec m) (y : BitVec n) :
    x ++ y = BitVec.ofNat (m + n) (x.toNat * 2 ^ n + y.toNat) := by
  rw [← Nat.shiftLeft_eq, Nat.shiftLeft_add_eq_or_of_lt y.isLt, ← BitVec.toNat_append, BitVec.ofNat_toNat,
    BitVec.setWidth_eq]

/-- Settles O1: each word is a literal, so its decoding computes, whatever the base. -/
theorem listedWordsDecodeAsTheSpecSays : Obligations.ListedWordsDecodeAsTheSpecSays := by
  intro base
  refine ⟨rfl, rfl, rfl, rfl, rfl, rfl, rfl, rfl, rfl, rfl, rfl, rfl, rfl, rfl, rfl, rfl⟩

theorem exec_panelByte_frame (i : Instr) (b : Byte) (s : State) (h : i.panelByte = some b) :
    ∃ q : Panel, exec i s = .next { s with trace := s.trace ++ [.tx s.cs s.dc b], panel := q } :=
  ⟨s.panel.observe (.tx s.cs s.dc b), exec_panelByte i b s h⟩

/-- Settles O12: the encoder's byte of each command, by value. -/
theorem commandBytesLeaveWithTheirLayouts : Obligations.CommandBytesLeaveWithTheirLayouts := by
  intro s f
  refine ⟨exec_panelByte_frame _ _ s ?_, exec_panelByte_frame _ _ s ?_, exec_panelByte_frame _ _ s ?_,
    exec_panelByte_frame _ _ s rfl, exec_panelByte_frame _ _ s rfl⟩
  · exact congrArg some (append_eq_ofNat 0x1#4 f)
  · exact congrArg some ((append_eq_ofNat 0x0#4 f).trans (by simp))
  · exact congrArg some (append_eq_ofNat 0xB#4 f)

/-! ## The frame pseudo-instruction (R118) -/

/-- Expansions that all succeed are joined in order. -/
theorem asmJoin_map_some {α : Type} (l : List α) (g : α → Option (List Action)) (f : α → List Action)
    (h : ∀ a ∈ l, g a = some (f a)) : asmJoin (l.map g) = some (l.flatMap f) := by
  induction l with
  | nil => rfl
  | cons a l ih =>
    have hrest := ih fun b hb => h b (List.mem_cons_of_mem a hb)
    simp [asmJoin, h a List.mem_cons_self, hrest]

/-- One refused expansion refuses the whole. -/
theorem asmJoin_eq_none (l : List (Option (List Action))) (h : none ∈ l) : asmJoin l = none := by
  induction l with
  | nil => cases h
  | cons a l ih =>
    cases a with
    | none => rfl
    | some as => simp [asmJoin, ih (by simpa using h)]

/-- `SEND_PAGE`'s word by value (R111). -/
theorem sendPageWord_toNat (pg : BitVec 4) (sp : BitVec 8) :
    (sendPageWord pg sp).toNat = 0x3000 ||| pg.toNat <<< 8 ||| sp.toNat := by
  have happend := BitVec.toNat_append (0x3#4 ++ pg) sp
  rw [BitVec.toNat_append 0x3#4 pg, Nat.shiftLeft_or_distrib] at happend
  exact happend

/-- The assembler's word is the encoder's where page and sub-page fit their fields (R111, R116). -/
theorem asmSendPageWord_eq (p sub : Nat) (hp : p < 16) (hsub : sub < 256) :
    asmSendPageWord p sub = sendPageWord (BitVec.ofNat 4 p) (BitVec.ofNat 8 sub) := by
  have hword := sendPageWord_toNat (BitVec.ofNat 4 p) (BitVec.ofNat 8 sub)
  rw [BitVec.toNat_ofNat, BitVec.toNat_ofNat, Nat.mod_eq_of_lt hp, Nat.mod_eq_of_lt hsub] at hword
  rw [asmSendPageWord, ← hword, BitVec.ofNat_toNat, BitVec.setWidth_eq]

theorem length_framePairs (c : Config) : (framePairs c).length = c.kNumPages * numSubpages c := by
  simp [framePairs]

theorem mem_framePairs (c : Config) (p sub : Nat) :
    (p, sub) ∈ framePairs c ↔ p < c.kNumPages ∧ sub < numSubpages c := by
  simp [framePairs]

/-- A sub-page of the frame is sent and flushed: the two requests of R117. -/
def sendAndFlush (base : Nat) (p sub : Nat) : List Action :=
  [.request (sendPageWord (BitVec.ofNat 4 p) (BitVec.ofNat 8 sub)) (some base), .request 0x4000#16 none]

theorem asmSendSubpage_eq (c : Config) (p sub base : Nat) (hp : p < 16) (hsub : sub < 256) (hbase : c.fitsAddr base) :
    asmSendSubpage c p sub base = some (sendAndFlush base p sub) := by
  have harg : p ≤ 15 ∧ sub ≤ 255 ∧ c.fitsAddr base := ⟨by omega, by omega, hbase⟩
  simp [asmSendSubpage, asmSendPage, harg, asmSendPageWord_eq p sub hp hsub, sendAndFlush]

theorem asmSendSubpage_eq_none (c : Config) (p sub base : Nat) (hbase : ¬ c.fitsAddr base) :
    asmSendSubpage c p sub base = none := by
  simp [asmSendSubpage, asmSendPage, hbase]

theorem numSubpages_pos (c : Config) (hc : c.wf) : 0 < numSubpages c := by
  obtain ⟨_, _, hpage, _, hsub, hmod⟩ := hc
  exact Nat.div_pos (Nat.le_of_dvd hpage (Nat.dvd_of_mod_eq_zero hmod)) hsub

theorem numSubpages_le (c : Config) (hc : c.wf) : numSubpages c ≤ 256 := by
  obtain ⟨_, _, _, hpage, _, _⟩ := hc
  exact (Nat.div_le_self _ _).trans hpage

/-- Settles O60: every pair of the frame expands, or the pair of the last page and sub-page 0 does not. -/
theorem sendFrameExpandsInOrder : Obligations.SendFrameExpandsInOrder := by
  intro c fb hc
  obtain ⟨hpages, hpages', _⟩ := id hc
  refine ⟨fun hfits => ?_, fun hbeyond => ?_⟩
  · refine ⟨(framePairs c).flatMap fun ps => sendAndFlush (frameAddr c fb ps.1 0) ps.1 ps.2, ?_, ?_, ?_⟩
    · refine asmJoin_map_some _ _ _ fun ⟨p, sub⟩ hmem => ?_
      obtain ⟨hp, hsub⟩ := (mem_framePairs c p sub).mp hmem
      have hle : p * c.kPageSize ≤ (c.kNumPages - 1) * c.kPageSize := Nat.mul_le_mul_right _ (by omega)
      have hsubs := numSubpages_le c hc
      refine asmSendSubpage_eq c p sub _ (by omega) (by omega) ?_
      simp only [frameAddr]
      omega
    · simp only [List.length_flatMap, sendAndFlush, List.length_cons, List.length_nil, List.map_const',
        List.sum_replicate, length_framePairs, smul_eq_mul, numSubpages]
      ring
    · simp [framePairs, sendAndFlush, numSubpages, List.flatMap_assoc, List.flatMap_map, frameAddr]
  · refine asmJoin_eq_none _ (List.mem_map.mpr ⟨(c.kNumPages - 1, 0), ?_, ?_⟩)
    · exact (mem_framePairs c _ 0).mpr ⟨by omega, numSubpages_pos c hc⟩
    · exact asmSendSubpage_eq_none c _ 0 _ (Nat.not_lt.mpr hbeyond)

end Sys2Proof.Machine

/-! The addressing command (R109, R132 to R134) and the reference panel behind the wire (R140 to R145): the encoder and
its decode view, who writes the command buffer, what a byte does to the panel, and that no step reads the panel. -/

namespace Sys2Proof.Machine

/-! ## The addressing command -/

/-- A fixed high nibble beside a value that fits the low one. -/
theorem byteOf_or (k : BitVec 4) (n : Nat) (h : n < 16) : byteOf (k.toNat <<< 4 ||| n) = k ++ BitVec.ofNat 4 n := by
  have happend := BitVec.toNat_append k (BitVec.ofNat 4 n)
  rw [BitVec.toNat_ofNat, Nat.mod_eq_of_lt h] at happend
  rw [byteOf, ← happend, BitVec.ofNat_toNat, BitVec.setWidth_eq]

/-- The three bytes are the encodings of `SET_COL_HI`, `SET_COL_LO` and `SET_PAGE` (R101 to R103, R132). -/
theorem encodeAddr_eq (p col : Nat) (hp : p < 16) (hcol : col < 256) :
    encodeAddr p col =
      { b0 := setColHiByte (BitVec.ofNat 4 (col / 16)), b1 := setColLoByte (BitVec.ofNat 4 (col % 16))
        b2 := setPageByte (BitVec.ofNat 4 p) } := by
  have hlow : col &&& 0x0F = col % 16 := Nat.and_two_pow_sub_one_eq_mod col 4
  have hb1 := byteOf_or 0x0#4 (col % 16) (by omega)
  rw [BitVec.toNat_ofNat, Nat.zero_mod, Nat.zero_shiftLeft, Nat.zero_or] at hb1
  rw [encodeAddr, Nat.shiftRight_eq_div_pow, hlow, hb1]
  exact congrArg₂ (CmdBuf.mk · _ ·) (byteOf_or 0x1#4 (col / 16) (by omega)) (byteOf_or 0xB#4 p hp)

theorem column_encodeAddr (p col : Nat) (hp : p < 16) (hcol : col < 256) : (encodeAddr p col).column = col := by
  rw [encodeAddr_eq p col hp hcol]
  simp only [CmdBuf.column, setColHiByte, setColLoByte, Byte.low_append, BitVec.toNat_ofNat]
  rw [← Nat.shiftLeft_add_eq_or_of_lt (by omega), Nat.shiftLeft_eq]
  omega

theorem page_encodeAddr (p col : Nat) (hp : p < 16) (hcol : col < 256) : (encodeAddr p col).page = p := by
  rw [encodeAddr_eq p col hp hcol]
  simpa [CmdBuf.page, setPageByte] using hp

/-- Settles O6: the bytes are nibbles side by side, and the decode view, an inverse, gives injectivity. -/
theorem addressingCommandIsInvertible : Obligations.AddressingCommandIsInvertible := by
  refine ⟨fun p col hp hcol => ?_, fun p col p' col' hp hcol hp' hcol' heq => ?_, fun p col hp hcol => ?_⟩
  · refine ⟨?_, ?_, ?_, column_encodeAddr p col hp hcol, page_encodeAddr p col hp hcol⟩
    all_goals
      rw [encodeAddr_eq p col hp hcol]
      exact Byte.high_append _ _
  · constructor
    · rw [← page_encodeAddr p col hp hcol, heq, page_encodeAddr p' col' hp' hcol']
    · rw [← column_encodeAddr p col hp hcol, heq, column_encodeAddr p' col' hp' hcol']
  · simp only [encodeAddr_eq p col (by omega) (by omega), setColHiByte, setPageByte, append_eq_ofNat, BitVec.toNat_ofNat]
    omega

/-! ## The command buffer -/

/-- R32, R134. -/
theorem Seq.body_cmdbuf (q : Seq) (s : State) :
    (q.body s).cmdbuf = match q with
      | .spCmd => encodeAddr s.reqPage (columnOf s.cfg s.reqSub)
      | .clCmd => encodeAddr s.clearPage 0
      | _ => s.cmdbuf := by
  cases q <;> rfl

/-- The engine's turn past `ACCEPT` where its `await` holds, whether the schedule or a free value names it. -/
theorem step_of_nextAgent_engine (s : State) (hagent : nextAgent s = .engine) (hrest : s.seq ≠ .rest)
    (hacc : s.seq ≠ .accept) (hawait : s.awaitHolds = true) : step s = .next (s.seq.body (takeTurn s)) := by
  have hawait' : (takeTurn s).awaitHolds = true := by rw [takeTurn_eq]; exact hawait
  have hen : enabled .engine (takeTurn s) = true := (enabled_engine _).mpr ⟨by simpa using hrest, hawait'⟩
  rw [step, hagent, agentTurn_of_enabled _ _ hen, agentStep, engineStep_eq_body _ (by simpa using hacc), takeTurn_seq]

/-- The step at `SP_CMD` or `CL_CMD`: neither waits, and both push the buffer they write (R134, R174, R193). -/
theorem step_addressing (s t : State) (hagent : nextAgent s = .engine) (hseq : s.seq = .spCmd ∨ s.seq = .clCmd)
    (h : step s = .next t) : t = s.seq.body (takeTurn s) ∧ t.txq = s.txq ++ t.cmdbuf.bytes := by
  have hstep : step s = .next (s.seq.body (takeTurn s)) := by
    refine step_of_nextAgent_engine s hagent ?_ ?_ ?_
    all_goals rcases hseq with hq | hq <;> simp [hq, State.awaitHolds]
  cases hstep.symm.trans h
  refine ⟨rfl, ?_⟩
  rw [← takeTurn_txq s]
  rcases hseq with hq | hq <;> rw [hq] <;> rfl

/-- Settles O45: the frames of a step keep the buffer, but for the engine's at the two positions that write it. -/
theorem commandBufferHasTwoWriters : Obligations.CommandBufferHasTwoWriters := by
  intro s t h
  refine ⟨fun hne => ?_, fun hagent hq => ?_, fun hagent hq => ?_, fun hagent hq => ?_⟩
  · rcases step_frames s t h with ⟨ha, _, rfl⟩ | ⟨_, _, _, hf⟩ | ⟨_, _, hf⟩ | ⟨_, hf⟩ | ⟨_, hf⟩ | hf
    · rw [Seq.body_cmdbuf] at hne
      refine ⟨ha, ?_⟩
      split at hne <;> simp_all
    all_goals exact absurd (congrArg State.cmdbuf hf) hne
  · rw [(step_addressing s t hagent (.inl hq) h).1, hq, Seq.body_cmdbuf, takeTurn_eq]
    rfl
  · rw [(step_addressing s t hagent (.inr hq) h).1, hq, Seq.body_cmdbuf, takeTurn_eq]
  · exact (step_addressing s t hagent hq h).2

/-! ## The reading of a panel byte (R141 to R144) -/

/-- A panel byte sent with chip-select Asserted, under the mode select it is encoded with, does to the panel what its
instruction says (R140). -/
theorem panel_of_exec (i : Instr) (dc : DcMode) (b : Byte) (s t : State) (henc : encode i = .panel dc b)
    (hcs : s.cs = .asserted) (hdc : s.dc = dc) (h : exec i s = .next t) : t.panel = s.panel.perform i := by
  have hdec := (decodePanelByte_eq_ok_iff dc b i).mpr henc
  cases (exec_panelByte i b s (panelByte_of_decodePanelByte dc b i hdec)).symm.trans h
  simp only [State.transmit_panel, hcs, hdc, Panel.observe, Panel.receive, hdec]

theorem low_toNat (b : Byte) : (Byte.low b).toNat = b.toNat % 16 := by
  simp [Byte.low]

theorem high_toNat (b : Byte) : (Byte.high b).toNat = b.toNat / 16 := by
  simp only [Byte.high, BitVec.extractLsb'_toNat, Nat.shiftRight_eq_div_pow]
  omega

/-- Settles O14: each command's reading, with the halves of the column register by value. -/
theorem commandBytesSetThePanelRegisters : Obligations.CommandBytesSetThePanelRegisters := by
  intro s t f hcs hdc
  refine ⟨fun h => ?_, fun h => ?_, fun hf h => ?_, fun h => ?_, fun h => ?_⟩
  all_goals rw [panel_of_exec _ .cmd _ s t rfl hcs hdc h, Panel.perform]
  · rw [Panel.setColumnHigh, append_eq_ofNat, low_toNat, Nat.mul_comm]
    rfl
  · rw [Panel.setColumnLow, append_eq_ofNat, high_toNat, Nat.mul_comm]
    rfl
  · have hpage : f.extractLsb' 0 3 = BitVec.ofNat 3 f.toNat := by
      rw [BitVec.ofNat_toNat, BitVec.setWidth_eq_extractLsb' (by decide)]
    rw [Panel.selectPage, if_pos hf, hpage]
  · rfl
  · rfl

/-- Inside the RAM the cells of the panel have keys of their own (R140). -/
theorem Panel.cell_inj (page column page' column' : Nat) (hc : column < Config.panelColumns)
    (hc' : column' < Config.panelColumns) (h : Panel.cell page column = Panel.cell page' column') :
    (page, column) = (page', column') := by
  simp only [Panel.cell, Config.panelColumns] at hc hc' h
  rw [Prod.mk.injEq]
  omega

/-- Settles O15: the RAM after the byte is the RAM with one cell set. -/
theorem dataBytesFillThePanelRam : Obligations.DataBytesFillThePanelRam := by
  intro s t d hcs hdc hcol h
  have hram : s.panel.column.toNat < Config.panelColumns := hcol
  rw [panel_of_exec (.data d) .data d s t rfl hcs hdc h, Panel.perform, Panel.writeData, if_pos hram]
  refine ⟨rfl, rfl, ?_, ?_, fun page column hcolumn hne => ?_⟩
  · have hone : (1 : Byte).toNat = 1 := rfl
    exact BitVec.toNat_add_of_lt (by omega)
  · simp [Panel.pixels]
  · have hcell := mt (Panel.cell_inj page column _ _ hcolumn hram) hne
    simp only [Panel.pixels, Memory.find_set_of_ne _ _ _ d hcell]

/-! ## No step reads the panel (R145) -/

/-- Two answers of a step are the same but for the panel of a next state. -/
inductive AlikeButPanel : Result → Result → Prop where
  | next {t u : State} (h : ∃ q : Panel, u = { t with panel := q }) : AlikeButPanel (.next t) (.next u)
  | fault (f : Fault) : AlikeButPanel (.fault f) (.fault f)
  | refused (r : Refusal) : AlikeButPanel (.refused r) (.refused r)

/-- A condition that does not read the panel picks the same branch. -/
theorem AlikeButPanel.ite {c : Prop} [Decidable c] {r₁ r₂ r₁' r₂' : Result} (h₁ : AlikeButPanel r₁ r₁')
    (h₂ : AlikeButPanel r₂ r₂') : AlikeButPanel (if c then r₁ else r₂) (if c then r₁' else r₂') := by
  split
  · exact h₁
  · exact h₂

/-- What the two answers say of each other, outcome by outcome. -/
theorem AlikeButPanel.outcomes (r r' : Result) (h : AlikeButPanel r r') :
    (∀ t, r = .next t → ∃ q : Panel, r' = .next { t with panel := q }) ∧
    (∀ f, r = .fault f → r' = .fault f) ∧ (∀ f, r = .refused f → r' = .refused f) := by
  cases h with
  | next hu =>
    obtain ⟨q, rfl⟩ := hu
    refine ⟨fun t' ht => ?_, nofun, nofun⟩
    cases ht
    exact ⟨q, rfl⟩
  | fault f => exact ⟨fun _ hf => (nomatch hf), fun _ hf => hf, nofun⟩
  | refused r => exact ⟨fun _ hr => (nomatch hr), nofun, fun _ hr => hr⟩

/-- The checks of the accept rules read no panel, and a panel byte is sent by the pins alone (R169, R220). -/
theorem exec_alikeButPanel (i : Instr) (s : State) (p : Panel) :
    AlikeButPanel (exec i s) (exec i { s with panel := p }) := by
  cases i with
  | init => exact .ite (.next ⟨_, rfl⟩) (.next ⟨_, rfl⟩)
  | flush => exact .ite (.next ⟨_, rfl⟩) (.next ⟨_, rfl⟩)
  | clear =>
    exact .ite (.next ⟨_, rfl⟩) (.ite (.next ⟨_, rfl⟩) (.next ⟨_, rfl⟩))
  | sendPage pg sp base =>
    exact .ite (.next ⟨_, rfl⟩) (.ite (.next ⟨_, rfl⟩)
      (.ite (.next ⟨_, rfl⟩) (.ite (.next ⟨_, rfl⟩) (.next ⟨_, rfl⟩))))
  | adjustOffset | setColHi | setColLo | setPage | displayOn | displayOff | data => exact .next ⟨_, rfl⟩

theorem stepAccept_alikeButPanel (s : State) (p : Panel) :
    AlikeButPanel (stepAccept s) (stepAccept { s with panel := p }) := by
  cases hdec : decodeRequest s.reqWord s.reqBase with
  | ok i =>
    rw [stepAccept_of_ok s i hdec, stepAccept_of_ok { s with panel := p } i hdec]
    exact exec_alikeButPanel i s p
  | error r =>
    rw [stepAccept_of_error s r hdec, stepAccept_of_error { s with panel := p } r hdec]
    exact .next ⟨_, rfl⟩

theorem Seq.body_withPanel (q : Seq) (s : State) (p : Panel) :
    ∃ p' : Panel, q.body { s with panel := p } = { q.body s with panel := p' } := by
  cases q <;> exact ⟨_, rfl⟩

theorem engineStep_of_accept (s : State) (h : s.seq = .accept) : engineStep s = stepAccept s := by
  simp only [engineStep, h]

theorem engineStep_alikeButPanel (s : State) (p : Panel) :
    AlikeButPanel (engineStep s) (engineStep { s with panel := p }) := by
  by_cases hseq : s.seq = .accept
  · rw [engineStep_of_accept s hseq, engineStep_of_accept { s with panel := p } hseq]
    exact stepAccept_alikeButPanel s p
  · rw [engineStep_eq_body s hseq, engineStep_eq_body { s with panel := p } hseq]
    exact .next (Seq.body_withPanel s.seq s p)

/-- The write hazard does not depend on the panel (R226). -/
theorem hostAct_withPanel (a : Action) (s : State) (p : Panel) :
    ∃ p' : Panel, hostAct a { s with panel := p } = { hostAct a s with panel := p' } := by
  cases a with
  | request w base => exact ⟨_, rfl⟩
  | readStatus => exact ⟨_, rfl⟩
  | write a v =>
    have hsame : State.writeHazard a { s with panel := p } = s.writeHazard a := rfl
    refine ⟨p, ?_⟩
    rw [hostAct, hostWrite_eq, hostWrite_eq, hsame]
    split <;> rfl

theorem hostStep_cons (s : State) (a : Action) (more : List Action) (h : s.prog = a :: more) :
    hostStep s =
      if a.encodable s.cfg then .next (hostAct a { s with prog := more }) else .refused .unencodableAction := by
  simp only [hostStep, h]

theorem agentStep_alikeButPanel (a : Agent) (s : State) (p : Panel) (hen : enabled a s = true) :
    AlikeButPanel (agentStep a s) (agentStep a { s with panel := p }) := by
  cases a with
  | engine => exact engineStep_alikeButPanel s p
  | host =>
    obtain ⟨act, more, hprog⟩ := List.exists_cons_of_ne_nil ((enabled_host s).mp hen).2
    rw [agentStep, agentStep, hostStep_cons s act more hprog, hostStep_cons { s with panel := p } act more hprog]
    exact .ite (.next (hostAct_withPanel act { s with prog := more } p)) (.refused _)
  | dma =>
    rw [agentStep, agentStep]
    by_cases hfits : s.cfg.fitsAddr s.dmaSrc
    · rw [dmaStep_of_fits s hfits, dmaStep_of_fits { s with panel := p } hfits]
      exact .next ⟨_, rfl⟩
    · rw [dmaStep_of_beyond s hfits, dmaStep_of_beyond { s with panel := p } hfits]
      exact .fault _
  | bus =>
    obtain ⟨b, queue, hq⟩ := List.exists_cons_of_ne_nil ((enabled_bus s).mp hen)
    rw [agentStep, agentStep, busStep_cons s b queue hq, busStep_cons { s with panel := p } b queue hq]
    exact .next ⟨_, rfl⟩

theorem takeTurn_withPanel (s : State) (p : Panel) :
    takeTurn { s with panel := p } = { takeTurn s with panel := p } := by
  cases hsched : s.sched <;> simp only [takeTurn, hsched]

theorem enabled_withPanel (a : Agent) (s : State) (p : Panel) : enabled a { s with panel := p } = enabled a s := by
  cases a <;> rfl

theorem agentTurn_alikeButPanel (a : Agent) (s : State) (p : Panel) :
    AlikeButPanel (agentTurn a s) (agentTurn a { s with panel := p }) := by
  cases hen : enabled a s with
  | true =>
    rw [agentTurn_of_enabled a s hen, agentTurn_of_enabled a _ ((enabled_withPanel a s p).trans hen)]
    exact agentStep_alikeButPanel a s p hen
  | false =>
    rw [agentTurn_of_disabled a s hen, agentTurn_of_disabled a _ ((enabled_withPanel a s p).trans hen)]
    exact .next ⟨p, rfl⟩

/-- Settles O52: whose turn it is does not depend on the panel, and the agent's turn answers alike. -/
theorem panelIsNeverRead : Obligations.PanelIsNeverRead := by
  intro s p
  have hagent : nextAgent { s with panel := p } = nextAgent s := rfl
  have halike := agentTurn_alikeButPanel (nextAgent s) (takeTurn s) p
  rw [← takeTurn_withPanel, ← hagent] at halike
  exact halike.outcomes

end Sys2Proof.Machine

/-! The five requests at `ACCEPT` (R150, R170, R181, R190, R201): what they may change, and `INIT`'s two answers; and
the steps of the initialization sequencer (R151 to R158). -/

namespace Sys2Proof.Machine

/-! ## The requests -/

/-- Settles O7: the branches of the accept rule. -/
theorem initAtAccept : Obligations.InitAtAccept :=
  fun _ => ⟨fun hfly => if_pos hfly, fun hfly => if_neg (ne_true_of_eq_false hfly)⟩

/-- What a request may change at `ACCEPT`: the position, the phase, the trace and one fault bit; `CLEAR` also writes its
page counter and return. -/
def State.RequestFrame (i : Instr) (s t : State) : Prop :=
  t = { s with
        phase := t.phase, seq := t.seq, fault := t.fault, clearPage := t.clearPage, ret := t.ret, trace := t.trace } ∧
  (t.fault = s.fault ∨ ∃ f : FaultCode, t.fault = s.fault ||| f.bit) ∧
  (i ≠ .clear → t.clearPage = s.clearPage ∧ t.ret = s.ret)

theorem State.requestFrame_dropRequest (i : Instr) (s : State) (f : FaultCode) (info : FaultInfo) :
    s.RequestFrame i (s.dropRequest f info) :=
  ⟨rfl, .inr ⟨f, rfl⟩, fun _ => ⟨rfl, rfl⟩⟩

theorem exec_requestFrame (i : Instr) (s t : State)
    (hi : i = .init ∨ i = .clear ∨ (∃ pg sp base, i = .sendPage pg sp base) ∨ i = .flush ∨ i = .adjustOffset)
    (h : exec i s = .next t) : s.RequestFrame i t := by
  rcases hi with rfl | rfl | ⟨pg, sp, base, rfl⟩ | rfl | rfl
  · rw [exec, execInit] at h
    split_ifs at h <;> cases h
    · exact s.requestFrame_dropRequest _ _ _
    · exact ⟨rfl, .inl rfl, fun _ => ⟨rfl, rfl⟩⟩
  · rw [exec, execClear] at h
    split_ifs at h <;> cases h
    · exact s.requestFrame_dropRequest _ _ _
    · exact s.requestFrame_dropRequest _ _ _
    · exact ⟨rfl, .inl rfl, fun hne => absurd rfl hne⟩
  · rw [exec, execSendPage] at h
    split_ifs at h <;> cases h
    · exact s.requestFrame_dropRequest _ _ _
    · exact s.requestFrame_dropRequest _ _ _
    · exact s.requestFrame_dropRequest _ _ _
    · exact ⟨rfl, .inr ⟨.sendPageInflight, rfl⟩, fun _ => ⟨rfl, rfl⟩⟩
    · exact ⟨rfl, .inl rfl, fun _ => ⟨rfl, rfl⟩⟩
  · rw [exec, execFlush] at h
    split_ifs at h <;> cases h
    · exact ⟨rfl, .inl rfl, fun _ => ⟨rfl, rfl⟩⟩
    · exact ⟨rfl, .inl rfl, fun _ => ⟨rfl, rfl⟩⟩
  · cases h
    exact ⟨rfl, .inl rfl, fun _ => ⟨rfl, rfl⟩⟩

/-- Settles O16: the frame of a request, and a fault bit raised leaves those set before. -/
theorem requestsFrame : Obligations.RequestsFrame := by
  intro i s t hi h
  obtain ⟨hframe, hfault, hclear⟩ := exec_requestFrame i s t hi h
  have hsticky : s.fault &&& t.fault = s.fault := by
    obtain hkept | ⟨f, hset⟩ := hfault
    · rw [hkept, BitVec.and_self]
    · rw [hset, and_or_self]
  rw [hframe] at hsticky hclear ⊢
  exact ⟨fun _ => rfl, rfl, rfl, rfl, rfl, rfl, rfl, rfl, rfl, rfl, rfl, rfl, rfl, rfl, rfl, rfl, rfl, rfl, rfl, rfl,
    rfl, rfl, rfl, hsticky, hclear⟩

/-! ## The initialization sequencer -/

/-- The positions of `INIT` with a step that waits for nothing. -/
def initUnwaited : List Seq := [.inPins, .inRstA, .inRstR, .inClkC, .inTbl, .inClkN, .inDone]

theorem step_initUnwaited (s : State) (q : Seq) (later : List Agent) (hsched : s.sched = .engine :: later)
    (hseq : s.seq = q) (hq : q ∈ initUnwaited) : step s = .next (q.body { s with sched := later }) := by
  have hpast : q ≠ .rest ∧ q ≠ .accept := by
    constructor
    all_goals
      rintro rfl
      revert hq
      decide
  refine step_engine_body s q later hsched hseq hpast.1 hpast.2 ?_
  simp only [initUnwaited, List.mem_cons, List.not_mem_nil, or_false] at hq
  rcases hq with rfl | rfl | rfl | rfl | rfl | rfl | rfl <;> simp [State.awaitHolds, hseq]

/-! The steps with two events, as records. -/

theorem stepInRstA_eq (s : State) :
    stepInRstA s = { s with
      rst := .asserted, trace := s.trace ++ [.rst .asserted, .delay .pulse], panel := s.panel.lose
      seq := .inRstR } := by
  simp [stepInRstA, State.writeRst, State.emit, Panel.observe]

theorem stepInRstR_eq (s : State) :
    stepInRstR s = { s with
      rst := .released, trace := s.trace ++ [.rst .released, .delay .settle], seq := .inClkC } := by
  simp [stepInRstR, State.writeRst, State.emit, Panel.observe]

theorem stepInTbl_eq (s : State) :
    stepInTbl s = { s with
      cs := .asserted, dc := .cmd, trace := s.trace ++ [.cs .asserted, .dc .cmd], txq := s.txq ++ s.cfg.initTable
      seq := .inTblWait } := by
  simp [stepInTbl, State.writeCs, State.writeDc, State.push, State.emit, Panel.observe]

/-- Settles O22: each position's body, and the turn held at `IN_TBLWAIT`. -/
theorem initSequencerSteps : Obligations.InitSequencerSteps := by
  intro s later hsched
  have hstep (q : Seq) (hq : q ∈ initUnwaited) (hseq : s.seq = q) := step_initUnwaited s q later hsched hseq hq
  refine ⟨hstep .inPins (by decide), fun hseq => ⟨s.panel.lose, ?_⟩, fun hseq => ?_, hstep .inClkC (by decide),
    fun hseq => ?_, fun hseq hq => ?_, fun hseq hq => ?_, hstep .inClkN (by decide), hstep .inDone (by decide)⟩
  · exact (hstep .inRstA (by decide) hseq).trans (congrArg _ (stepInRstA_eq _))
  · exact (hstep .inRstR (by decide) hseq).trans (congrArg _ (stepInRstR_eq _))
  · exact (hstep .inTbl (by decide) hseq).trans (congrArg _ (stepInTbl_eq _))
  · rw [step_cons s .engine later hsched, agentTurn_of_disabled]
    simp [enabled, State.awaitHolds, hseq, State.drained, State.busCount, hq]
  · have hawait : s.awaitHolds = true := by simp [State.awaitHolds, hseq, drained_iff, hq]
    exact step_engine_body s .inTblWait later hsched hseq nofun nofun hawait

end Sys2Proof.Machine

/-! Under a schedule fair to the engine, the DMA and the bus (`BusLive`, R229) every request returns (R161). A potential
counts what is left to do: the engine's steps, with the bytes they queue and the bytes they give the DMA to move, twice
each since a moved byte is queued. Every step taken spends of it, and short of `REST` some agent may always step. -/

namespace Sys2Proof.Machine

/-! ## Sound states -/

/-- In a sound state every agent's turn answers a state: no action is refused (R116) and the DMA stays inside `Mem`
(R44, R70). -/
theorem agentTurn_of_sound (a : Agent) (s : State) (hs : s.Sound) : ∃ t, agentTurn a s = .next t := by
  cases hen : enabled a s with
  | false => exact ⟨s, agentTurn_of_disabled a s hen⟩
  | true =>
    rw [agentTurn_of_enabled a s hen]
    cases a with
    | host =>
      obtain ⟨act, more, hprog⟩ := List.exists_cons_of_ne_nil ((enabled_host s).mp hen).2
      have henc : act.encodable s.cfg = true := hs.actions act (hprog ▸ List.mem_cons_self)
      exact ⟨_, (hostStep_cons s act more hprog).trans (if_pos henc)⟩
    | engine => exact engineStep_next s
    | dma =>
      obtain ⟨_, hrem⟩ := (enabled_dma s).mp hen
      have hfits : s.cfg.fitsAddr s.dmaSrc := (Nat.lt_add_of_pos_right hrem).trans_le hs.burstFits
      exact ⟨_, dmaStep_of_fits s hfits⟩
    | bus =>
      obtain ⟨b, queue, hq⟩ := List.exists_cons_of_ne_nil ((enabled_bus s).mp hen)
      exact ⟨_, busStep_cons s b queue hq⟩

/-- Settles O38, from the turn of any agent. -/
theorem soundStatesAlwaysStep : Obligations.SoundStatesAlwaysStep :=
  fun s hs => agentTurn_of_sound (nextAgent s) (takeTurn s) (takeTurn_sound s hs)

/-! ## The potential -/

/-- What a page costs: `CL_CMD` with its three bytes, `CL_DATA` with the page's, and the two waits. -/
def pageCost (c : Config) : Nat := c.kPageSize + 7

/-- What is left at `CL_DATAWAIT` with page `p` sent: the wait, the pages after it, and `CL_ON` to `CL_END` with the
display-on byte, and `IN_DONE`. -/
def clearLeft (c : Config) (p : Nat) : Nat := (c.kNumPages - (p + 1)) * pageCost c + 6

/-- What is left of a request at each position: the steps, the bytes they queue, and two for each byte `SP_DMA` loads.
`latched` is what is left at `ACCEPT`. -/
def Seq.left (c : Config) (p latched : Nat) : Seq → Nat
  | .rest => 0
  | .accept => latched
  | .spClk => 2 * c.kSubpageSize + 10
  | .spCs => 2 * c.kSubpageSize + 9
  | .spCmd => 2 * c.kSubpageSize + 8
  | .spCmdWait => 2 * c.kSubpageSize + 4
  | .spDc => 2 * c.kSubpageSize + 3
  | .spDma => 2 * c.kSubpageSize + 2
  | .spFlag => 1
  | .flDma => 5
  | .flDrain => 4
  | .flCs => 3
  | .flFlag => 2
  | .flRst => 1
  | .clCs => clearLeft c p + pageCost c
  | .clCmd => clearLeft c p + c.kPageSize + 6
  | .clCmdWait => clearLeft c p + c.kPageSize + 2
  | .clData => clearLeft c p + c.kPageSize + 1
  | .clDataWait => clearLeft c p
  | .clOn => 5
  | .clOnWait => 3
  | .clEnd => 2
  | .inPins => c.initTable.length + clearLeft c 0 + pageCost c + 7
  | .inRstA => c.initTable.length + clearLeft c 0 + pageCost c + 6
  | .inRstR => c.initTable.length + clearLeft c 0 + pageCost c + 5
  | .inClkC => c.initTable.length + clearLeft c 0 + pageCost c + 4
  | .inTbl => c.initTable.length + clearLeft c 0 + pageCost c + 3
  | .inTblWait => clearLeft c 0 + pageCost c + 2
  | .inClkN => clearLeft c 0 + pageCost c + 1
  | .inDone => 1

/-- What is left of the request latched at `ACCEPT`: its step there (R169), and what follows if it is accepted. -/
def acceptLeft (c : Config) : Except Reject Instr → Nat
  | .ok .init => Seq.inPins.left c 0 0 + 1
  | .ok .clear => Seq.clCs.left c 0 0 + 1
  | .ok (.sendPage _ _ _) => Seq.spClk.left c 0 0 + 1
  | .ok .flush => Seq.flDma.left c 0 0 + 1
  | _ => 1

/-- What is left of the request, latched or under way. -/
def State.requestLeft (s : State) : Nat :=
  s.seq.left s.cfg s.clearPage (acceptLeft s.cfg (decodeRequest s.reqWord s.reqBase))

/-- What is left to do: of the request, of the burst, and of the queue. -/
def State.left (s : State) : Nat := s.requestLeft + 2 * s.dmaRemaining + s.txq.length

theorem acceptLeft_pos (c : Config) (r : Except Reject Instr) : 0 < acceptLeft c r := by
  unfold acceptLeft
  split <;> omega

theorem Seq.left_pos (c : Config) (p latched : Nat) (q : Seq) (hq : q ≠ .rest) (hlatched : 0 < latched) :
    0 < q.left c p latched := by
  cases q
  case rest => exact absurd rfl hq
  all_goals
    simp only [Seq.left, clearLeft, pageCost]
    omega

/-- Something is left until `REST`. -/
theorem State.left_pos (s : State) (h : s.seq ≠ .rest) : 0 < s.left := by
  have hreq : 0 < s.requestLeft := Seq.left_pos _ _ _ _ h (acceptLeft_pos _ _)
  rw [State.left]
  omega

/-- One page fewer is left after `CL_DATAWAIT` (R196). -/
theorem clearLeft_succ (c : Config) (p : Nat) (h : p + 1 < c.kNumPages) :
    clearLeft c p = clearLeft c (p + 1) + pageCost c := by
  have hone : c.kNumPages - (p + 1) = c.kNumPages - (p + 1 + 1) + 1 := by omega
  rw [clearLeft, clearLeft, hone, Nat.add_mul]
  omega

/-- `ACCEPT` spends, whatever it decides (R169). -/
theorem stepAccept_left (s t : State) (hseq : s.seq = .accept) (h : stepAccept s = .next t) : t.left < s.left := by
  cases hdec : decodeRequest s.reqWord s.reqBase with
  | error r =>
    rw [stepAccept_of_error s r hdec] at h
    cases h
    simp [State.left, State.requestLeft, hseq, hdec, acceptLeft, Seq.left]
  | ok i =>
    rw [stepAccept_of_ok s i hdec] at h
    rcases decodeRequest_cases _ _ i hdec with rfl | rfl | rfl | rfl | rfl
    case inr.inr.inr.inr =>
      cases h
      simp [State.left, State.requestLeft, hseq, hdec, acceptLeft, Seq.left]
    all_goals
      simp only [exec, execInit, execClear, execSendPage, execFlush] at h
      split_ifs at h
      all_goals
        cases h
        simp [State.left, State.requestLeft, hseq, hdec, acceptLeft, Seq.left, acceptSendPage]

/-- The engine past `ACCEPT` spends. -/
theorem Seq.body_left (s : State) (hrest : s.seq ≠ .rest) (hacc : s.seq ≠ .accept) :
    (s.seq.body s).left < s.left := by
  cases hseq : s.seq
  case rest => exact absurd hseq hrest
  case accept => exact absurd hseq hacc
  case clDataWait =>
    simp only [State.left, State.requestLeft, Seq.body, stepClDataWait, hseq]
    split
    case isTrue h =>
      have hpage := clearLeft_succ s.cfg s.clearPage h
      simp only [Seq.left, pageCost] at hpage ⊢
      omega
    case isFalse =>
      simp only [Seq.left, clearLeft]
      omega
  case clEnd =>
    cases hret : s.ret <;>
      simp [State.left, State.requestLeft, Seq.body, stepClEnd, hseq, hret, ClearReturn.target, Seq.left]
  all_goals
    simp [State.left, State.requestLeft, Seq.body, hseq, Seq.left, stepSpClk, stepSpCs, stepSpCmd, stepSpCmdWait,
      stepSpDc, stepSpDma, stepSpFlag, stepFlDma, stepFlDrain, stepFlCs, stepFlFlag, stepFlRst, stepClCs, stepClCmd,
      stepClCmdWait, stepClData, stepClOn, stepClOnWait, stepInPins, stepInRstA, stepInRstR, stepInClkC, stepInTbl,
      stepInTblWait, stepInClkN, stepInDone, CmdBuf.bytes, zeros, pageCost] <;> omega

theorem Seq.body_inputs (q : Seq) (s : State) : (q.body s).sched = s.sched ∧ (q.body s).prog = s.prog := by
  cases q <;> exact ⟨rfl, rfl⟩

theorem stepAccept_inputs (s t : State) (h : stepAccept s = .next t) : t.sched = s.sched ∧ t.prog = s.prog := by
  rcases stepAccept_next s t h with
    ⟨f, info, rfl⟩ | ⟨_, rfl⟩ | ⟨_, _, rfl⟩ | ⟨_, _, _, ⟨_, rfl⟩ | ⟨_, rfl⟩⟩ | ⟨_, rfl⟩ | rfl
  all_goals exact ⟨rfl, rfl⟩

/-- With no host action left every step taken spends, and the schedule and the host program stay. -/
theorem agentStep_left (a : Agent) (s t : State) (hprog : s.prog = []) (hen : enabled a s = true)
    (h : agentStep a s = .next t) : t.left < s.left ∧ t.sched = s.sched ∧ t.prog = s.prog := by
  rcases agentStep_cases a s t hen h with
    ⟨_, _, act, more, hact, _⟩ | ⟨_, hseq, hacc⟩ | ⟨rfl, hseq, rfl⟩ | ⟨_, _, hrem, rfl⟩ | ⟨_, b, queue, hqueue, rfl⟩
  · cases hact.symm.trans hprog
  · exact ⟨stepAccept_left s t hseq hacc, stepAccept_inputs s t hacc⟩
  · exact ⟨Seq.body_left s ((enabled_engine s).mp hen).1 hseq, Seq.body_inputs _ _⟩
  · refine ⟨?_, rfl, rfl⟩
    have hsame : (dmaMove (Memory.read s.mem s.dmaSrc) s).requestLeft = s.requestLeft := rfl
    rw [State.left, State.left, hsame]
    simp only [dmaMove_eq, List.length_append, List.length_singleton]
    omega
  · refine ⟨?_, rfl, rfl⟩
    have hsame : (State.transmit b { s with txq := queue }).requestLeft = s.requestLeft := rfl
    simp [State.left, hsame, hqueue]

/-- Short of `REST`, one of the three agents may step: the engine itself, the bus it waits for to drain the queue, or
the DMA it waits for to end the burst (R229). -/
theorem exists_enabled (s : State) (hs : s.Sound) (hseq : s.seq ≠ .rest) :
    enabled .engine s = true ∨ enabled .dma s = true ∨ enabled .bus s = true := by
  by_cases hq : s.txq = []
  case neg => exact .inr (.inr ((enabled_bus s).mpr hq))
  have hdrained := (drained_iff s).mpr hq
  by_cases hfl : s.seq = .flDma
  · have hact : s.dmaActive = true := hs.outstanding (hs.flushed (by rw [hfl]; rfl))
    by_cases hrem : s.dmaRemaining = 0
    · have hdone := (hs.completion hact).mpr hrem
      exact .inl ((enabled_engine s).mpr ⟨hseq, by simp [State.awaitHolds, hfl, hdone]⟩)
    · exact .inr (.inl ((enabled_dma s).mpr ⟨hact, Nat.pos_of_ne_zero hrem⟩))
  · refine .inl ((enabled_engine s).mpr ⟨hseq, ?_⟩)
    unfold State.awaitHolds
    split
    case h_1 h => exact absurd h hfl
    all_goals simp [hdrained]

/-! ## Fair rounds -/

/-- The named agent's turn in a sound state with no host action left. -/
theorem step_left (a : Agent) (later : List Agent) (s : State) (hs : s.Sound) (hprog : s.prog = [])
    (hsched : s.sched = a :: later) :
    ∃ t, step s = .next t ∧ (t.Sound ∧ t.prog = [] ∧ t.sched = later) ∧
      (t.left < s.left ∨ (enabled a s = false ∧ t = { s with sched := later })) := by
  have hu : State.Sound { s with sched := later } := hs.of_frame s _ rfl
  have hsame : enabled a { s with sched := later } = enabled a s := by cases a <;> rfl
  obtain ⟨t, hturn⟩ := agentTurn_of_sound a _ hu
  have hstep : step s = .next t := (step_cons s a later hsched).trans hturn
  have ht := stepKeepsSound s t hs hstep
  refine ⟨t, hstep, ?_⟩
  cases hen : enabled a s with
  | true =>
    rw [agentTurn_of_enabled a _ (hsame.trans hen)] at hturn
    obtain ⟨hleft, hsched', hprog'⟩ := agentStep_left a { s with sched := later } t hprog (hsame.trans hen) hturn
    exact ⟨⟨ht, hprog'.trans hprog, hsched'⟩, .inl hleft⟩
  | false =>
    rw [agentTurn_of_disabled a _ (hsame.trans hen)] at hturn
    cases hturn
    exact ⟨⟨ht, hprog, rfl⟩, .inr ⟨rfl, rfl⟩⟩

/-- A list of turns never gives back, and spends where one of its agents may step at its start. -/
theorem run_left (agents later : List Agent) (s : State) (hs : s.Sound) (hprog : s.prog = [])
    (hsched : s.sched = agents ++ later) :
    ∃ t, Sys2Proof.core.run agents.length s = .next t ∧ (t.Sound ∧ t.prog = [] ∧ t.sched = later) ∧ t.left ≤ s.left ∧
      ((∃ a ∈ agents, enabled a s = true) → t.left < s.left) := by
  induction agents generalizing s with
  | nil => exact ⟨s, rfl, ⟨hs, hprog, hsched⟩, le_rfl, by simp⟩
  | cons a agents ih =>
    obtain ⟨u, hstep, ⟨hu, huprog, husched⟩, hspent⟩ := step_left a (agents ++ later) s hs hprog hsched
    obtain ⟨t, hrun, hkept, hle, hlt⟩ := ih u hu huprog husched
    refine ⟨t, (run_succ_of_next _ s u hstep).trans hrun, hkept, ?_⟩
    obtain hspent | ⟨hdis, rfl⟩ := hspent
    · exact ⟨hle.trans hspent.le, fun _ => hle.trans_lt hspent⟩
    · refine ⟨hle, fun ⟨b, hb, hen⟩ => hlt ⟨b, ?_, by cases b <;> exact hen⟩⟩
      obtain rfl | hb := List.mem_cons.mp hb
      · cases hen.symm.trans hdis
      · exact hb

theorem run_add_of_next (m n : Nat) (s u : State) (h : Sys2Proof.core.run m s = .next u) :
    Sys2Proof.core.run (m + n) s = Sys2Proof.core.run n u := by
  induction m generalizing s with
  | zero => cases h; rw [Nat.zero_add]
  | succ m ih =>
    obtain ⟨v, hstep, hrun⟩ := run_succ_next m s u h
    rw [Nat.add_right_comm, run_succ_of_next _ s v hstep, ih v hrun]

/-- With no host action left no agent takes the engine out of `REST` (R224). -/
theorem agentStep_rest (a : Agent) (s t : State) (hseq : s.seq = .rest) (hprog : s.prog = []) (hen : enabled a s = true)
    (h : agentStep a s = .next t) : t.seq = .rest ∧ t.prog = [] := by
  rcases agentStep_cases a s t hen h with
    ⟨_, _, act, more, hact, _⟩ | ⟨_, hacc, _⟩ | ⟨rfl, _⟩ | ⟨_, _, _, rfl⟩ | ⟨_, b, queue, _, rfl⟩
  · cases hact.symm.trans hprog
  · cases hacc.symm.trans hseq
  · exact absurd hseq ((enabled_engine s).mp hen).1
  · exact ⟨hseq, hprog⟩
  · exact ⟨hseq, hprog⟩

theorem run_rest (n : Nat) (s t : State) (hseq : s.seq = .rest) (hprog : s.prog = [])
    (h : Sys2Proof.core.run n s = .next t) : t.seq = .rest := by
  refine (run_keeps (fun u => u.seq = .rest ∧ u.prog = []) (fun u v ⟨hseq, hprog⟩ hstep => ?_) n s t ⟨hseq, hprog⟩ h).1
  obtain ⟨_, rfl⟩ | ⟨hen, hstep⟩ := step_next_cases u v hstep
  · exact ⟨(takeTurn_seq u).trans hseq, (takeTurn_prog u).trans hprog⟩
  · exact agentStep_rest _ _ v ((takeTurn_seq u).trans hseq) ((takeTurn_prog u).trans hprog) hen hstep

/-- Each fair round spends, until the engine is at `REST`. -/
theorem run_rounds (rounds : List (List Agent)) (s : State) (hs : s.Sound) (hprog : s.prog = [])
    (hsched : s.sched = rounds.flatten) (hfair : ∀ r ∈ rounds, fairRound r) :
    ∃ t, Sys2Proof.core.run rounds.flatten.length s = .next t ∧
      (t.seq = .rest ∨ t.left + rounds.length ≤ s.left) := by
  induction rounds generalizing s with
  | nil => exact ⟨s, rfl, .inr le_rfl⟩
  | cons r rounds ih =>
    obtain ⟨u, hround, ⟨hu, huprog, husched⟩, _, hspent⟩ := run_left r rounds.flatten s hs hprog hsched
    obtain ⟨t, hrest, hleft⟩ := ih u hu huprog husched fun r' hr' => hfair r' (List.mem_cons_of_mem r hr')
    have hrun : Sys2Proof.core.run (r :: rounds).flatten.length s = .next t := by
      rw [List.flatten_cons, List.length_append, run_add_of_next _ _ s u hround, hrest]
    refine ⟨t, hrun, ?_⟩
    by_cases hseq : s.seq = .rest
    · exact .inl (run_rest _ s t hseq hprog hrun)
    · obtain ⟨hengine, hdma, hbus⟩ := hfair r List.mem_cons_self
      have hless : u.left < s.left := by
        refine hspent ?_
        rcases exists_enabled s hs hseq with hen | hen | hen
        · exact ⟨_, hengine, hen⟩
        · exact ⟨_, hdma, hen⟩
        · exact ⟨_, hbus, hen⟩
      refine hleft.imp id fun hle => ?_
      rw [List.length_cons]
      omega

/-- Settles O59: the bound is what is left to do. -/
theorem everyRequestReturnsUnderFairSchedules : Obligations.EveryRequestReturnsUnderFairSchedules := by
  intro s hs hprog
  refine ⟨s.left, fun rounds hfair hbound => ?_⟩
  obtain ⟨t, hrun, hend⟩ :=
    run_rounds rounds { s with sched := rounds.flatten } (hs.of_frame s _ rfl) hprog rfl hfair
  refine ⟨t, hrun, hend.elim id fun hle => ?_⟩
  have hsame : State.left { s with sched := rounds.flatten } = s.left := rfl
  by_contra hseq
  have := t.left_pos hseq
  omega

end Sys2Proof.Machine

/-! A request run by the engine and the bus alone, in every interleaving, and the `INIT` of spec 41_init_sequencer.md
(R160). While neither the host nor the DMA may step, the bus only empties the queue under pins that stay as they are; so
a run in any interleaving is, once its queue has drained, a run of the engine that lets the queue drain after each step
(`State.alone`). That run is deterministic and is computed once. -/

namespace Sys2Proof.Machine

/-! ## The engine alone -/

/-- The state once the queue has drained under the pins as they are (R220). The panel and the schedule, which the engine
does not read, are put aside. -/
def State.settled (s : State) : State :=
  { s with
    txq := [], trace := s.trace ++ s.txq.map (.tx s.cs s.dc), panel := Panel.powerOn, sched := [], turn := 0 }

/-- The engine's step, and then the queue drains. -/
def State.alone (s : State) : State := (s.seq.body s).settled

/-- The engine alone gets from one state to the other. -/
def State.AloneTo : State → State → Prop := Relation.ReflTransGen fun s t => s.alone = t

theorem State.settled_settled (s : State) : s.settled.settled = s.settled := by
  simp [State.settled]

theorem State.settled_takeTurn (s : State) : (takeTurn s).settled = s.settled := by
  rw [takeTurn_eq]; rfl

/-- A byte that leaves the queue is where the drained queue puts it. -/
theorem State.settled_transmit (s : State) (b : Byte) (queue : List Byte) (hq : s.txq = b :: queue) :
    (State.transmit b { s with txq := queue }).settled = s.settled := by
  simp [State.settled, State.transmit, State.emit, hq]

theorem State.settled_of_empty (s : State) (hq : s.txq = []) :
    s.settled = { s with panel := Panel.powerOn, sched := [], turn := 0 } := by
  simp [State.settled, hq]

/-- The engine's step reads neither the panel nor the schedule. -/
theorem Seq.settled_body_frame (q : Seq) (s : State) (p : Panel) (sched : List Agent) (turn : Nat) :
    (q.body { s with panel := p, sched := sched, turn := turn }).settled = (q.body s).settled := by
  cases q <;> rfl

/-- With nothing queued the engine's step is the step of the engine alone. -/
theorem State.settled_body (s : State) (hq : s.txq = []) : (s.seq.body s).settled = s.settled.alone := by
  rw [State.alone, s.settled_of_empty hq]
  exact (Seq.settled_body_frame s.seq s _ _ _).symm

/-- At `REST` the engine alone stays (R18). -/
theorem State.alone_of_rest (s : State) (hrest : s.seq = .rest) : s.settled.alone = s.settled := by
  have hseq : s.settled.seq = .rest := hrest
  rw [State.alone, hseq]
  exact s.settled_settled

/-- The engine alone gets to one state of `REST`. -/
theorem State.AloneTo.eq_of_rest (a s t : State) (hs : a.AloneTo s.settled) (ht : a.AloneTo t.settled)
    (hsrest : s.seq = .rest) (htrest : t.seq = .rest) : s.settled = t.settled := by
  have hunique : Relator.RightUnique fun u v : State => u.alone = v := fun _ _ _ h h' => h.symm.trans h'
  have hstays (u v : State) (hu : u.seq = .rest) (h : u.settled.AloneTo v) : u.settled = v := by
    induction h with
    | refl => rfl
    | tail _ hlast ih => rw [← hlast, ← ih, u.alone_of_rest hu]
  obtain h | h := Relation.ReflTransGen.total_of_right_unique hunique hs ht
  · exact hstays s _ hsrest h
  · exact (hstays t _ htrest h).symm

/-! ## Any interleaving -/

/-- The positions of `INIT` and `CLEAR` past `ACCEPT`, and the `REST` they end at (R31). -/
def Seq.initOrClear : Seq → Bool
  | .rest | .clCs | .clCmd | .clCmdWait | .clData | .clDataWait | .clOn | .clOnWait | .clEnd => true
  | .inPins | .inRstA | .inRstR | .inClkC | .inTbl | .inTblWait | .inClkN | .inDone => true
  | _ => false

/-- The positions of `INIT` and `CLEAR` that wait for the queue to drain (R156, R194, R196, R198). -/
def Seq.draining : Seq → Bool
  | .clCmdWait | .clDataWait | .clOnWait | .inTblWait => true
  | _ => false

/-- A run of `INIT` or `CLEAR` that is, up to the bytes still queued, on the way of the engine alone from `a`. -/
structure State.Follows (a s : State) : Prop where
  alone : a.AloneTo s.settled
  position : s.seq.initOrClear = true
  queue : s.txq = [] ∨ s.seq.draining = true
  idle : s.dmaActive = false
  host : s.prog = []

theorem State.awaitHolds_of_draining (s : State) (h : s.seq.draining = true) : s.awaitHolds = s.drained := by
  unfold State.awaitHolds
  cases hseq : s.seq
  case spCmdWait | flDrain | clCmdWait | clDataWait | clOnWait | inTblWait => rfl
  all_goals
    rw [hseq] at h
    cases h

theorem ClearReturn.target_initOrClear (r : ClearReturn) : r.target.initOrClear = true := by cases r <;> rfl

/-- `INIT` and `CLEAR` go on within their positions, load no descriptor, and queue bytes only to wait for them. -/
theorem Seq.body_initOrClear (s : State) (h : s.seq.initOrClear = true) (hq : s.txq = []) :
    (s.seq.body s).seq.initOrClear = true ∧
      ((s.seq.body s).txq = [] ∨ (s.seq.body s).seq.draining = true) ∧
      (s.seq.body s).dmaActive = s.dmaActive ∧ (s.seq.body s).prog = s.prog := by
  cases hseq : s.seq
  case rest => exact ⟨congrArg Seq.initOrClear hseq, .inl hq, rfl, rfl⟩
  case clCs | clCmdWait | clOnWait | inPins | inRstA | inRstR | inClkC | inTblWait | inClkN | inDone =>
    exact ⟨rfl, .inl hq, rfl, rfl⟩
  case clCmd | clData | clOn | inTbl => exact ⟨rfl, .inr rfl, rfl, rfl⟩
  case clDataWait =>
    refine ⟨?_, .inl hq, rfl, rfl⟩
    simp only [Seq.body, stepClDataWait]
    split <;> rfl
  case clEnd => exact ⟨ClearReturn.target_initOrClear s.ret, .inl hq, rfl, rfl⟩
  all_goals
    rw [hseq] at h
    cases h

theorem State.Follows.takeTurn (a s : State) (hf : a.Follows s) : a.Follows (takeTurn s) where
  alone := s.settled_takeTurn ▸ hf.alone
  position := takeTurn_seq s ▸ hf.position
  queue := by simpa using hf.queue
  idle := (takeTurn_dmaActive s).trans hf.idle
  host := (takeTurn_prog s).trans hf.host

/-- An agent's step keeps to the way of the engine alone: the engine goes on along it, the bus only empties the queue,
and neither the host nor the DMA may step. -/
theorem State.Follows.agentStep (a u t : State) (agent : Agent) (hf : a.Follows u) (hen : enabled agent u = true)
    (hstep : agentStep agent u = .next t) : a.Follows t := by
  rcases agentStep_cases _ u t hen hstep with
    ⟨_, _, _, _, hprog, _⟩ | ⟨_, hseq, _⟩ | ⟨rfl, _, rfl⟩ | ⟨_, hact, _⟩ | ⟨_, b, queue, hqueue, rfl⟩
  · cases hprog.symm.trans hf.host
  · cases (congrArg Seq.initOrClear hseq).symm.trans hf.position
  · have hq : u.txq = [] := hf.queue.elim id fun hdrain =>
      (drained_iff u).mp ((u.awaitHolds_of_draining hdrain).symm.trans ((enabled_engine u).mp hen).2)
    obtain ⟨hposition, hqueue, hidle, hhost⟩ := Seq.body_initOrClear u hf.position hq
    exact ⟨hf.alone.tail (u.settled_body hq).symm, hposition, hqueue, hidle.trans hf.idle, hhost.trans hf.host⟩
  · cases hact.symm.trans hf.idle
  · have hne : u.txq ≠ [] := hqueue ▸ List.cons_ne_nil b queue
    exact ⟨by rw [u.settled_transmit b queue hqueue]; exact hf.alone, hf.position,
      .inr (hf.queue.resolve_left hne), hf.idle, hf.host⟩

theorem State.Follows.step (a s t : State) (hf : a.Follows s) (h : step s = .next t) : a.Follows t := by
  obtain ⟨_, rfl⟩ | ⟨hen, hstep⟩ := step_next_cases s t h
  · exact hf.takeTurn
  · exact hf.takeTurn.agentStep a _ t _ hen hstep

theorem State.Follows.start (a : State) (hposition : a.seq.initOrClear = true) (hq : a.txq = [])
    (hidle : a.dmaActive = false) (hprog : a.prog = []) (sched : List Agent) (turn : Nat) :
    a.settled.Follows { a with sched := sched, turn := turn } :=
  ⟨.refl, hposition, .inl hq, hidle, hprog⟩

/-- Turns have been taken, and nothing else has happened. -/
def State.Waits (s u : State) : Prop := ∃ sched turn, u = { s with sched := sched, turn := turn }

/-- A quiet state at `ACCEPT`, with no action left, stays there until the engine has its turn. -/
theorem step_accept_quiet (s t : State) (hquiet : s.Quiet) (hprog : s.prog = []) (hseq : s.seq = .accept)
    (h : step s = .next t) : t = takeTurn s ∨ stepAccept (takeTurn s) = .next t := by
  obtain ⟨_, rfl⟩ | ⟨hen, hstep⟩ := step_next_cases s t h
  · exact .inl rfl
  obtain ⟨_, hact, hempty⟩ := hquiet
  rcases agentStep_cases _ _ t hen hstep with
    ⟨_, _, _, _, hprog', _⟩ | ⟨_, _, hacc⟩ | ⟨_, hne, _⟩ | ⟨_, hact', _⟩ | ⟨_, _, _, hqueue, _⟩
  · simp [hprog] at hprog'
  · exact .inr hacc
  · simp [hseq] at hne
  · simp [hact] at hact'
  · simp [hempty] at hqueue

/-- A request taken with nothing in flight to `a`, from where the engine alone gets to `z` at `REST`, ends in `z` in
every interleaving. -/
theorem runUnder_request (s a z t : State) (agents : List Agent) (hquiet : s.Quiet) (hprog : s.prog = [])
    (hseq : s.seq = .accept)
    (haccept : ∀ sched turn,
      stepAccept { s with sched := sched, turn := turn } = .next { a with sched := sched, turn := turn })
    (hfollows : ∀ sched turn, a.settled.Follows { a with sched := sched, turn := turn })
    (halone : a.settled.AloneTo z.settled) (hz : z.seq = .rest) (hzq : z.txq = [])
    (hrun : runUnder agents s = .next t) (hrest : t.seq = .rest) :
    t = { z with panel := t.panel, sched := t.sched, turn := t.turn } := by
  have hkeeps (u v : State) (hu : s.Waits u ∨ a.settled.Follows u) (h : step u = .next v) :
      s.Waits v ∨ a.settled.Follows v := by
    obtain ⟨sched, turn, rfl⟩ | hu := hu
    · obtain hheld | hacc := step_accept_quiet { s with sched := sched, turn := turn } v hquiet hprog hseq h
      · exact .inl ⟨_, _, hheld.trans (takeTurn_eq _)⟩
      · rw [takeTurn_eq] at hacc
        cases (haccept _ _).symm.trans hacc
        exact .inr (hfollows _ _)
    · exact .inr (hu.step a.settled u v h)
  obtain ⟨_, _, rfl⟩ | ht := run_keeps _ hkeeps agents.length _ t (.inl ⟨agents, s.turn, rfl⟩) hrun
  · cases hrest.symm.trans hseq
  · have hq : t.txq = [] := ht.queue.resolve_right (by rw [hrest]; nofun)
    have hend : t.settled = z.settled := State.AloneTo.eq_of_rest a.settled t z ht.alone halone hrest hz
    rw [t.settled_of_empty hq, z.settled_of_empty hzq] at hend
    obtain ⟨⟩ := t
    cases hend
    rfl

/-! ## What the engine does alone -/

theorem State.aloneTo_of_iterate (n : Nat) (s t : State) (h : State.alone^[n] s = t) : s.AloneTo t := by
  subst h
  induction n generalizing s with
  | zero => exact .refl
  | succ n ih => exact (ih s.alone).head rfl

/-- One page is cleared (R193 to R196). -/
theorem State.aloneTo_clearPage (s : State) (hseq : s.seq = .clCmd) (hcs : s.cs = .asserted) (hq : s.txq = []) :
    s.settled.AloneTo (State.settled
      { s with
        cmdbuf := encodeAddr s.clearPage 0, dc := .data, trace := s.trace ++ clearPageTrace s.cfg s.clearPage,
        clearPage := s.clearPage + 1, seq := if s.clearPage + 1 < s.cfg.kNumPages then .clCmd else .clOn }) := by
  refine State.aloneTo_of_iterate 4 _ _ ?_
  have haddr : (encodeAddr s.clearPage 0).bytes = [0x10#8, 0x00#8, byteOf (0xB0 ||| s.clearPage)] := rfl
  simp [State.alone, State.settled, hseq, hcs, hq, Seq.body, stepClCmd, stepClCmdWait, stepClData, stepClDataWait,
    State.push, State.writeDc, State.emit, zeros, clearPageTrace, haddr]

/-- The page at hand and the `n` pages left after it are cleared (R196). -/
theorem State.aloneTo_clearPages (n : Nat) (s : State) (hseq : s.seq = .clCmd) (hcs : s.cs = .asserted)
    (hq : s.txq = []) (hn : s.clearPage + n + 1 = s.cfg.kNumPages) :
    s.settled.AloneTo (State.settled
      { s with
        cmdbuf := encodeAddr (s.cfg.kNumPages - 1) 0, dc := .data, clearPage := s.cfg.kNumPages, seq := .clOn
        trace := s.trace ++ (List.range' s.clearPage (n + 1)).flatMap (clearPageTrace s.cfg) }) := by
  have hpage := s.aloneTo_clearPage hseq hcs hq
  induction n generalizing s with
  | zero =>
    have hlast : s.clearPage = s.cfg.kNumPages - 1 := by omega
    rw [if_neg (by omega), hn] at hpage
    simpa [List.range'_succ, ← hlast] using hpage
  | succ n ih =>
    rw [if_pos (by omega)] at hpage
    have hrest := ih { s with
      cmdbuf := encodeAddr s.clearPage 0, dc := .data, trace := s.trace ++ clearPageTrace s.cfg s.clearPage
      clearPage := s.clearPage + 1, seq := .clCmd } rfl hcs hq (by rw [← hn]; ring)
      (State.aloneTo_clearPage _ rfl hcs hq)
    rw [List.range'_succ, List.flatMap_cons, ← List.append_assoc]
    exact hpage.trans hrest

/-- `Clear`, from `CL_CS` to where `CL_END` goes (R192 to R199). -/
theorem State.aloneTo_clear (s : State) (hpages : 1 ≤ s.cfg.kNumPages) (hseq : s.seq = .clCs)
    (hpage : s.clearPage = 0) (hq : s.txq = []) :
    s.settled.AloneTo (State.settled
      { s with
        cs := .deasserted, dc := .cmd, cmdbuf := encodeAddr (s.cfg.kNumPages - 1) 0, clearPage := s.cfg.kNumPages
        trace := s.trace ++ clearTrace s.cfg, phase := .idle, seq := s.ret.target }) := by
  have hstart : s.settled.AloneTo (stepClCs s).settled := by
    refine State.aloneTo_of_iterate 1 _ _ ?_
    simp [State.alone, State.settled, hseq, hq, Seq.body, stepClCs, State.writeCs, State.emit]
  have hclear := State.aloneTo_clearPages (s.cfg.kNumPages - 1) (stepClCs s) rfl rfl hq (by
    change s.clearPage + (s.cfg.kNumPages - 1) + 1 = s.cfg.kNumPages
    omega)
  refine (hstart.trans hclear).trans (State.aloneTo_of_iterate 3 _ _ ?_)
  have hrange : List.range' 0 (s.cfg.kNumPages - 1 + 1) = List.range s.cfg.kNumPages := by
    rw [Nat.sub_add_cancel hpages, List.range_eq_range']
  simp [State.alone, State.settled, hq, hpage, Seq.body, stepClCs, stepClOn, stepClOnWait, stepClEnd, State.push,
    State.writeCs, State.writeDc, State.emit, clearTrace, displayOnByte, hrange]

/-- The events of `INIT` up to its `Clear` (R151 to R157). -/
def initHeadTrace (c : Config) : List Event :=
  [Event.pinCfg, .rst .asserted, .delay .pulse, .rst .released, .delay .settle, .clk .cmd, .cs .asserted, .dc .cmd] ++
    c.initTable.map (Event.tx .asserted .cmd) ++ [Event.cs .deasserted, .clk .normal]

/-- `INIT` up to its `Clear`, from `IN_PINS` to `CL_CS` (R151 to R157). -/
theorem State.aloneTo_initHead (s : State) (hseq : s.seq = .inPins) (hq : s.txq = []) :
    s.settled.AloneTo (State.settled
      { s with
        pinCfg := true, cs := .deasserted, dc := .cmd, rst := .released, clk := .normal, clearPage := 0, ret := .init
        trace := s.trace ++ initHeadTrace s.cfg, seq := .clCs }) := by
  refine State.aloneTo_of_iterate 7 _ _ ?_
  simp [State.alone, State.settled, hseq, hq, Seq.body, stepInPins, stepInRstA, stepInRstR, stepInClkC, stepInTbl,
    stepInTblWait, stepInClkN, State.push, State.writeDc, State.writeCs, State.writeRst, State.writeClk, Rate.toClk,
    State.emit, initHeadTrace]

/-- The state an `INIT` ends in (R160). -/
def initEnd (s : State) : State :=
  { s with
    pinCfg := true, cs := .deasserted, dc := .cmd, rst := .released, clk := .normal
    cmdbuf := encodeAddr (s.cfg.kNumPages - 1) 0, clearPage := s.cfg.kNumPages, ret := .init
    trace := s.trace ++ initTrace s.cfg, phase := .idle, initialised := true, seq := .rest }

/-- `INIT`, from `IN_PINS` back to `REST` (R151 to R160). -/
theorem State.aloneTo_init (s : State) (hpages : 1 ≤ s.cfg.kNumPages) (hseq : s.seq = .inPins) (hq : s.txq = []) :
    s.settled.AloneTo (initEnd s).settled := by
  have hclear := (s.aloneTo_initHead hseq hq).trans (State.aloneTo_clear _ hpages rfl rfl hq)
  refine hclear.trans (State.aloneTo_of_iterate 1 _ _ ?_)
  simp [State.alone, State.settled, hq, Seq.body, ClearReturn.target, stepInDone, initEnd, initTrace, initHeadTrace]

/-- Settles O55: in every interleaving the run ends as the engine's alone does, in `initEnd`. -/
theorem initIsTheSameInEveryInterleaving : Obligations.InitIsTheSameInEveryInterleaving := by
  intro s t agents hc hquiet hprog hseq hword hrun hrest
  obtain ⟨hfly, hidle, hq⟩ := id hquiet
  let a : State := { s with phase := .commandPhase, seq := .inPins }
  have haccept (sched : List Agent) (turn : Nat) :
      stepAccept { s with sched := sched, turn := turn } = .next { a with sched := sched, turn := turn } := by
    have hdec : decodeRequest s.reqWord s.reqBase = .ok .init := by rw [hword]; rfl
    rw [stepAccept_of_ok { s with sched := sched, turn := turn } .init hdec]
    exact if_neg (ne_true_of_eq_false hfly)
  rw [runUnder_request s a (initEnd a) t agents hquiet hprog hseq haccept
    (State.Follows.start a rfl hq hidle hprog) (a.aloneTo_init hc.1 rfl hq) rfl hq hrun hrest]
  exact ⟨rfl, rfl, hfly, rfl, rfl, rfl, rfl, rfl, hq, rfl, rfl, rfl⟩

end Sys2Proof.Machine

/-! The requests of spec 42_frame_transfer.md at `ACCEPT` (R170, R181, R190, R201), and the steps of `SendPage`, `Flush`
and `Clear` (R171 to R178, R182 to R186, R192 to R199). -/

namespace Sys2Proof.Machine

/-! ## The requests -/

/-- Settles O8: the branches of the accept rule. -/
theorem clearAtAccept : Obligations.ClearAtAccept := by
  intro s
  refine ⟨fun hinit => if_pos (by rw [hinit]; rfl), fun hinit hfly => (if_neg ?_).trans (if_pos hfly),
    fun hinit hfly => (if_neg ?_).trans (if_neg (ne_true_of_eq_false hfly))⟩
  all_goals
    rw [hinit]
    decide

/-- Settles O10: the branches of the accept rule. -/
theorem flushAtAccept : Obligations.FlushAtAccept :=
  fun _ => ⟨fun hfly => if_neg (ne_true_of_eq_false hfly), fun hfly => if_pos hfly⟩

/-- Settles O11: its accept rule, its decoding, and the words of its op that `decodeRequest_error_iff` lists. -/
theorem adjustOffsetOnlyReturns : Obligations.AdjustOffsetOnlyReturns := by
  refine ⟨fun _ => rfl, rfl, fun s later hsched hseq hword => ?_, fun s later hsched hseq hop hword => ?_⟩
  · exact stepRunsTheLatchedRequest s later .adjustOffset hsched hseq (by rw [hword]; rfl)
  · have hlow : s.reqWord.toNat % 4096 ≠ 0 := by
      intro hzero
      refine hword (BitVec.eq_of_toNat_eq ?_)
      simp only [BitVec.toNat_ofNat]
      omega
    obtain ⟨r, hdec⟩ := (decodeRequest_error_iff s.reqWord s.reqBase).mpr (by omega)
    exact illegalWordsAreTheReservedOnesAndAreDropped.2 s later r hsched hseq hdec

theorem argsInRange_iff (c : Config) (p sub : Nat) :
    argsInRange c p sub = true ↔ p < c.kNumPages ∧ sub < c.kPageSize / c.kSubpageSize := by
  rw [argsInRange, Bool.and_eq_true, decide_eq_true_iff, decide_eq_true_iff, numSubpages]

theorem pageOverruns_iff (c : Config) (base : Nat) :
    pageOverruns c base = true ↔ 2 ^ c.addrW - 1 < base + c.kPageSize - 1 :=
  decide_eq_true_iff

section SendPage

variable (s : State) (pg : BitVec 4) (sp : BitVec 8) (base : Nat) (hinit : s.initialised = true)

include hinit

/-- An initialised block decides on the arguments first (R170). -/
theorem execSendPage_of_args (hargs : ¬ (pg.toNat < s.cfg.kNumPages ∧ sp.toNat < s.cfg.kPageSize / s.cfg.kSubpageSize)) :
    execSendPage pg sp base s = .next (s.dropRequest .argRange (.args pg.toNat sp.toNat)) := by
  rw [← argsInRange_iff, Bool.not_eq_true] at hargs
  simp [execSendPage, hinit, hargs]

/-- Then on the page's addresses (R170). -/
theorem execSendPage_of_overrun (hargs : pg.toNat < s.cfg.kNumPages ∧ sp.toNat < s.cfg.kPageSize / s.cfg.kSubpageSize)
    (hover : 2 ^ s.cfg.addrW - 1 < base + s.cfg.kPageSize - 1) :
    execSendPage pg sp base s = .next (s.dropRequest .addrRange (.base base)) := by
  rw [← argsInRange_iff] at hargs
  rw [← pageOverruns_iff] at hover
  simp [execSendPage, hinit, hargs, hover]

/-- A request that passes both checks is accepted, a burst in flight being flagged (R170, R179). -/
theorem execSendPage_of_fits (hargs : pg.toNat < s.cfg.kNumPages ∧ sp.toNat < s.cfg.kPageSize / s.cfg.kSubpageSize)
    (hfits : base + s.cfg.kPageSize - 1 ≤ 2 ^ s.cfg.addrW - 1) :
    execSendPage pg sp base s =
      if s.inflight then .next (acceptSendPage (s.raise .sendPageInflight .none)) else .next (acceptSendPage s) := by
  rw [← argsInRange_iff] at hargs
  rw [← Nat.not_lt, ← pageOverruns_iff, Bool.not_eq_true] at hfits
  simp [execSendPage, hinit, hargs, hfits]

end SendPage

/-- Settles O9: the branches of the accept rule, in the order of its checks. -/
theorem sendPageAtAccept : Obligations.SendPageAtAccept := by
  intro s pg sp base
  refine ⟨fun hinit => if_pos (by rw [hinit]; rfl),
    fun hinit hout => execSendPage_of_args s pg sp base hinit (by omega),
    fun hinit hpg hsp => execSendPage_of_overrun s pg sp base hinit ⟨hpg, hsp⟩,
    fun hinit hpg hsp hfits hfly => ?_, fun hinit hpg hsp hfits hfly => ?_⟩
  · exact (execSendPage_of_fits s pg sp base hinit ⟨hpg, hsp⟩ hfits).trans (if_pos hfly)
  · exact (execSendPage_of_fits s pg sp base hinit ⟨hpg, hsp⟩ hfits).trans (if_neg (ne_true_of_eq_false hfly))

/-! ## The turn of the engine past `ACCEPT` -/

/-- The positions that wait for the queue to drain (R156, R175, R183, R194, R196, R198). -/
def Seq.awaitsDrain (q : Seq) : Bool := q.draining || q == .spCmdWait || q == .flDrain

/-- The positions past `ACCEPT` with a step that waits for nothing. -/
def Seq.unwaited (q : Seq) : Bool := q != .rest && q != .accept && q != .flDma && !q.awaitsDrain

theorem State.awaitHolds_of_awaitsDrain (s : State) (h : s.seq.awaitsDrain = true) : s.awaitHolds = s.drained := by
  simp only [Seq.awaitsDrain, Bool.or_eq_true, beq_iff_eq] at h
  obtain (hdrain | hsp) | hfl := h
  · exact s.awaitHolds_of_draining hdrain
  · simp only [State.awaitHolds, hsp]
  · simp only [State.awaitHolds, hfl]

theorem State.awaitHolds_of_unwaited (s : State) (h : s.seq.unwaited = true) : s.awaitHolds = true := by
  unfold State.awaitHolds
  cases hseq : s.seq
  case flDma | spCmdWait | flDrain | clCmdWait | clDataWait | clOnWait | inTblWait =>
    rw [hseq] at h
    cases h
  all_goals rfl

theorem step_engine_holds (s : State) (later : List Agent) (hsched : s.sched = .engine :: later)
    (hawait : s.awaitHolds = false) : step s = .next { s with sched := later } := by
  rw [step_cons s .engine later hsched, agentTurn_of_disabled]
  exact (Bool.and_eq_false_iff).mpr (.inr hawait)

section Turns

variable (s : State) (q : Seq) (later : List Agent) (hsched : s.sched = .engine :: later) (hseq : s.seq = q)

include hsched hseq

theorem step_unwaited (hq : q.unwaited = true) : step s = .next (q.body { s with sched := later }) := by
  refine step_engine_body s q later hsched hseq ?_ ?_ (s.awaitHolds_of_unwaited (hseq ▸ hq))
  all_goals
    rintro rfl
    cases hq

theorem step_drained (hq : q.awaitsDrain = true) (hempty : s.txq = []) :
    step s = .next (q.body { s with sched := later }) := by
  refine step_engine_body s q later hsched hseq ?_ ?_ ?_
  case refine_3 => rw [s.awaitHolds_of_awaitsDrain (hseq ▸ hq), drained_iff, hempty]
  all_goals
    rintro rfl
    cases hq

theorem step_undrained (hq : q.awaitsDrain = true) (hqueued : s.txq ≠ []) :
    step s = .next { s with sched := later } := by
  refine step_engine_holds s later hsched ?_
  rw [s.awaitHolds_of_awaitsDrain (hseq ▸ hq), ← Bool.not_eq_true, drained_iff]
  exact hqueued

end Turns

/-! ## The sequences -/

/-- `E.req_page` by value (R36). -/
theorem reqPage_eq (s : State) : s.reqPage = s.reqWord.toNat / 256 % 16 := by
  simp [State.reqPage, ReqWord.pg, Nat.shiftRight_eq_div_pow]

/-- `E.req_sub` by value (R36). -/
theorem reqSub_eq (s : State) : s.reqSub = s.reqWord.toNat % 256 := by
  simp [State.reqSub, ReqWord.sp]

/-- Settles O23: each position's body, with the operands by value, and the turn held at `SP_CMDWAIT`. -/
theorem sendPageSteps : Obligations.SendPageSteps := by
  intro s later hsched
  have hstep (q : Seq) (hq : q.unwaited = true) (hseq : s.seq = q) := step_unwaited s q later hsched hseq hq
  refine ⟨hstep .spClk rfl, hstep .spCs rfl, fun hseq p col hp hcol => ?_,
    fun hseq => step_undrained s .spCmdWait later hsched hseq rfl,
    fun hseq => step_drained s .spCmdWait later hsched hseq rfl, hstep .spDc rfl, fun hseq => ?_, hstep .spFlag rfl⟩
  · rw [hp, hcol, ← reqPage_eq, ← reqSub_eq]
    exact hstep .spCmd rfl hseq
  · rw [← reqSub_eq]
    exact hstep .spDma rfl hseq

/-- Settles O24: each position's body, and the turn held at the two waits. -/
theorem flushSteps : Obligations.FlushSteps := by
  intro s later hsched
  have hstep (q : Seq) (hq : q.unwaited = true) (hseq : s.seq = q) := step_unwaited s q later hsched hseq hq
  have hawait (hseq : s.seq = .flDma) : s.awaitHolds = s.dmaDone := by simp only [State.awaitHolds, hseq]
  refine ⟨fun hseq hdone => ?_, fun hseq hdone => ?_, fun hseq => step_undrained s .flDrain later hsched hseq rfl,
    fun hseq => step_drained s .flDrain later hsched hseq rfl, hstep .flCs rfl, hstep .flFlag rfl, hstep .flRst rfl⟩
  · exact step_engine_holds s later hsched ((hawait hseq).trans hdone)
  · exact step_engine_body s .flDma later hsched hseq nofun nofun ((hawait hseq).trans hdone)

theorem stepClDataWait_of_lt (s : State) (h : s.clearPage + 1 < s.cfg.kNumPages) :
    stepClDataWait s = { s with clearPage := s.clearPage + 1, seq := .clCmd } := by
  rw [stepClDataWait, if_pos h]

theorem stepClDataWait_of_le (s : State) (h : s.cfg.kNumPages ≤ s.clearPage + 1) :
    stepClDataWait s = { s with clearPage := s.clearPage + 1, seq := .clOn } := by
  rw [stepClDataWait, if_neg (Nat.not_lt.mpr h)]

theorem stepClEnd_of_ret (s : State) (r : ClearReturn) (h : s.ret = r) :
    stepClEnd s =
      { s with cs := .deasserted, trace := s.trace ++ [.cs .deasserted], phase := .idle, seq := r.target } := by
  rw [← h]
  rfl

/-- Settles O25: each position's body, where `Clear` goes from `CL_DATAWAIT` and `CL_END`, and the turn held at the
three waits. -/
theorem clearSteps : Obligations.ClearSteps := by
  intro s later hsched
  have hstep (q : Seq) (hq : q.unwaited = true) (hseq : s.seq = q) := step_unwaited s q later hsched hseq hq
  have hdrained (q : Seq) (hq : q.awaitsDrain = true) (hseq : s.seq = q) := step_drained s q later hsched hseq hq
  refine ⟨hstep .clCs rfl, hstep .clCmd rfl, fun hseq => ?_, hdrained .clCmdWait rfl, hstep .clData rfl,
    fun hseq hempty hmore => ?_, fun hseq hempty hlast => ?_, hstep .clOn rfl, hdrained .clOnWait rfl,
    fun hseq hret => ?_, fun hseq hret => ?_⟩
  · refine step_undrained s s.seq later hsched rfl ?_
    rcases hseq with hq | hq | hq <;> rw [hq] <;> rfl
  · exact (hdrained .clDataWait rfl hseq hempty).trans (congrArg _ (stepClDataWait_of_lt _ hmore))
  · exact (hdrained .clDataWait rfl hseq hempty).trans (congrArg _ (stepClDataWait_of_le _ hlast))
  · exact (hstep .clEnd rfl hseq).trans (congrArg _ (stepClEnd_of_ret _ .init hret))
  · exact (hstep .clEnd rfl hseq).trans (congrArg _ (stepClEnd_of_ret _ .host hret))

end Sys2Proof.Machine

/-! The `CLEAR` of spec 42_frame_transfer.md section 4, in every interleaving (R200): the run is the engine's alone, and
what its trace shows the panel is computed once. -/

namespace Sys2Proof.Machine

theorem panelStream_append (t u : List Event) : panelStream (t ++ u) = panelStream t ++ panelStream u :=
  List.filterMap_append

/-- What the panel receives of one cleared page (R193, R195). -/
theorem panelStream_clearPageTrace (c : Config) (p : Nat) :
    panelStream (clearPageTrace c p) =
      [(.cmd, 0x10#8), (.cmd, 0x00#8), (.cmd, byteOf (0xB0 ||| p))] ++ List.replicate c.kPageSize (.data, 0x00#8) := by
  have hzeros : panelStream (List.replicate c.kPageSize (.tx .asserted .data 0x00#8)) =
      List.replicate c.kPageSize (.data, 0x00#8) := List.filterMap_replicate_of_some rfl
  rw [clearPageTrace, panelStream_append, hzeros]
  rfl

/-- What the panel receives of a whole `Clear`: its pages in order, and the display-on (R200). -/
theorem panelStream_clearTrace (c : Config) :
    panelStream (clearTrace c) =
      (List.range c.kNumPages).flatMap (fun p => panelStream (clearPageTrace c p)) ++ [(.cmd, 0xAF#8)] := by
  rw [clearTrace, panelStream_append, panelStream_append]
  exact congrArg (· ++ _) List.filterMap_flatMap

/-- Settles O56: in every interleaving the run ends as the engine's alone does, from `CL_CS` back to `REST`. -/
theorem clearIsTheSameInEveryInterleaving : Obligations.ClearIsTheSameInEveryInterleaving := by
  intro s t agents hc hquiet hprog hinit hseq hword hrun hrest
  obtain ⟨hfly, hidle, hq⟩ := id hquiet
  let a : State := { s with phase := .commandPhase, clearPage := 0, ret := .host, seq := .clCs }
  have haccept (sched : List Agent) (turn : Nat) :
      stepAccept { s with sched := sched, turn := turn } = .next { a with sched := sched, turn := turn } := by
    have hdec : decodeRequest s.reqWord s.reqBase = .ok .clear := by rw [hword]; rfl
    rw [stepAccept_of_ok { s with sched := sched, turn := turn } .clear hdec]
    exact (clearAtAccept { s with sched := sched, turn := turn }).2.2 hinit hfly
  rw [runUnder_request s a _ t agents hquiet hprog hseq haccept
    (State.Follows.start a rfl hq hidle hprog) (a.aloneTo_clear hc.1 rfl rfl hq) rfl hq hrun hrest]
  refine ⟨?_, rfl, rfl, rfl, rfl⟩
  change panelStream (s.trace ++ clearTrace s.cfg) = _
  simp only [panelStream_append, panelStream_clearTrace, panelStream_clearPageTrace, List.append_assoc]

end Sys2Proof.Machine

/-! The `FLUSH` of spec 42_frame_transfer.md section 3 under a fair schedule (R188, R290): that it returns is the
potential's (`run_rounds`); that nothing is in flight when it does is an invariant of its run. -/

namespace Sys2Proof.Machine

/-- A `FLUSH` from its latched word on, with no host action left: until `FL_FLAG` it is under way, and from then on, or
where it was a no-op, nothing is in flight (R181, R185). -/
structure State.Flushing (s : State) : Prop where
  host : s.prog = []
  position :
    (s.seq = .accept ∧ s.reqWord = 0x4000#16) ∨ s.seq.flushing = true ∨
      ((s.seq = .flRst ∨ s.seq = .rest) ∧ s.inflight = false)

/-- The engine at `ACCEPT` with a `FLUSH` latched (R181). -/
theorem stepAccept_flush (s : State) (hword : s.reqWord = 0x4000#16) :
    stepAccept s = .next { s with seq := if s.inflight then .flDma else .rest } := by
  rw [stepAccept_of_ok s .flush (by rw [hword]; rfl), exec, execFlush]
  split <;> rfl

theorem State.Flushing.takeTurn (s : State) (hf : s.Flushing) : (takeTurn s).Flushing := by
  rw [takeTurn_eq]
  exact ⟨hf.host, hf.position⟩

/-- The engine goes from one position of the `FLUSH` to the next; the DMA and the bus move neither the sequencer nor the
flag. -/
theorem State.Flushing.agentStep (agent : Agent) (s t : State) (hf : s.Flushing) (hen : enabled agent s = true)
    (h : agentStep agent s = .next t) : t.Flushing := by
  rcases agentStep_cases agent s t hen h with
    ⟨_, _, act, more, hact, _⟩ | ⟨_, hseq, hacc⟩ | ⟨rfl, hseq, rfl⟩ | ⟨_, _, _, rfl⟩ | ⟨_, b, queue, _, rfl⟩
  · cases hact.symm.trans hf.host
  · obtain ⟨_, hword⟩ | hflush | ⟨hend, _⟩ := hf.position
    · cases (stepAccept_flush s hword).symm.trans hacc
      refine ⟨hf.host, .inr ?_⟩
      cases hfly : s.inflight
      · exact .inr ⟨.inr rfl, rfl⟩
      · exact .inl rfl
    · rw [hseq] at hflush; cases hflush
    · simp [hseq] at hend
  · refine ⟨(Seq.body_inputs _ s).2.trans hf.host, .inr ?_⟩
    obtain ⟨hacc, _⟩ | hflush | ⟨hrst | hrest, hfly⟩ := hf.position
    · exact absurd hacc hseq
    · cases hq : s.seq
      case flDma | flDrain | flCs => exact .inl rfl
      case flFlag => exact .inr ⟨.inl rfl, rfl⟩
      all_goals
        rw [hq] at hflush
        cases hflush
    · rw [hrst]
      exact .inr ⟨.inr rfl, hfly⟩
    · exact absurd hrest ((enabled_engine s).mp hen).1
  · exact ⟨hf.host, hf.position⟩
  · exact ⟨hf.host, hf.position⟩

theorem State.Flushing.step (s t : State) (hf : s.Flushing) (h : step s = .next t) : t.Flushing := by
  obtain ⟨_, rfl⟩ | ⟨hen, hstep⟩ := step_next_cases s t h
  · exact hf.takeTurn
  · exact hf.takeTurn.agentStep _ _ t hen hstep

theorem State.Flushing.inflight_of_rest (s : State) (hf : s.Flushing) (hrest : s.seq = .rest) : s.inflight = false := by
  obtain ⟨hacc, _⟩ | hflush | ⟨_, hfly⟩ := hf.position
  · cases hacc.symm.trans hrest
  · rw [hrest] at hflush; cases hflush
  · exact hfly

/-- What is left of a `FLUSH` at `ACCEPT`: its six steps, the burst and the queue (R188). -/
theorem State.left_flush (s : State) (hseq : s.seq = .accept) (hword : s.reqWord = 0x4000#16) :
    s.left = 6 + 2 * s.dmaRemaining + s.txq.length := by
  have hdec : decodeRequest s.reqWord s.reqBase = .ok .flush := by rw [hword]; rfl
  simp [State.left, State.requestLeft, hseq, hdec, Seq.left, acceptLeft]

/-- Settles O58: the bound is what is left at `ACCEPT`, and the run keeps `Flushing`. -/
theorem flushReturnsUnderFairSchedules : Obligations.FlushReturnsUnderFairSchedules := by
  intro s rounds hs hprog hseq hword hfair hbound
  let u : State := { s with sched := rounds.flatten }
  obtain ⟨t, hrun, hend⟩ := run_rounds rounds u (hs.of_frame s _ rfl) hprog rfl hfair
  have hleft : u.left = 6 + 2 * s.dmaRemaining + s.txq.length := u.left_flush hseq hword
  have hrest : t.seq = .rest := by
    by_contra hne
    have hpos := t.left_pos hne
    have hspent := hend.resolve_left hne
    omega
  have hf : t.Flushing := run_keeps State.Flushing State.Flushing.step _ u t ⟨hprog, .inl ⟨hseq, hword⟩⟩ hrun
  exact ⟨t, hrun, hrest, hf.inflight_of_rest t hrest⟩

end Sys2Proof.Machine

/-! The agents' turns (spec 43_transport_agents.md): what the bus puts on the wire, what a host `WRITE` and a
`READ_STATUS` change, who appends to the queue, and that a final state rests. -/

namespace Sys2Proof.Machine

/-! ## The bus -/

/-- Settles O17: the frame of the byte the instruction is encoded as. -/
theorem panelBytesFrame : Obligations.PanelBytesFrame := by
  intro i s t hi h
  have hbyte : ∃ b, i.panelByte = some b := by
    rcases hi with ⟨_, rfl⟩ | ⟨_, rfl⟩ | ⟨_, rfl⟩ | rfl | rfl | ⟨_, rfl⟩ <;> exact ⟨_, rfl⟩
  obtain ⟨b, hb⟩ := hbyte
  obtain ⟨q, hexec⟩ := exec_panelByte_frame i b s hb
  cases hexec.symm.trans h
  exact ⟨fun _ => rfl, ⟨b, rfl⟩, rfl⟩

/-- Settles O20: the bus held, or the head byte transmitted. -/
theorem busEmitsTheHeadByte : Obligations.BusEmitsTheHeadByte := by
  intro s later hsched
  refine ⟨fun hempty => ?_, fun b queue hq => ⟨s.panel.observe (.tx s.cs s.dc b), ?_⟩⟩
  · rw [step_cons s .bus later hsched, agentTurn_of_disabled]
    simp [enabled, drained_iff, hempty]
  · rw [step_of_enabled s .bus later hsched ((enabled_bus s).mpr (hq ▸ List.cons_ne_nil b queue))]
    exact busStep_cons { s with sched := later } b queue hq

/-! ## The host -/

/-- The hazard of a host write, by value (R226). -/
theorem State.writeHazard_iff (a : Nat) (s : State) :
    s.writeHazard a = true ↔ s.inflight = true ∧ s.xferBase ≤ a ∧ a < s.xferBase + s.cfg.kPageSize := by
  simp [State.writeHazard, inPageRegion]

/-- Settles O29: the action can be encoded, and `hostWrite_eq` has a branch on each side of the hazard. -/
theorem hostWriteChangesOneByte : Obligations.HostWriteChangesOneByte := by
  intro s later a v more hs hsched hseq hprog
  have henc : (Action.write a v).encodable s.cfg = true := hs.actions _ (hprog ▸ List.mem_cons_self)
  have hstep : step s = .next (hostWrite a v { s with sched := later, prog := more }) := by
    rw [step_host s later _ more hsched hseq hprog, if_pos henc, hostAct]
  refine ⟨Memory.write s.mem a v, fun x => Memory.read_write s.mem a x v hs.memory.1, fun hin => ?_, fun hout => ?_⟩
  · have hhazard : s.writeHazard a = true := (s.writeHazard_iff a).mpr hin
    rw [hstep, hostWrite_eq]
    exact congrArg Host.Outcome.next (if_pos hhazard)
  · have hsafe : ¬ s.writeHazard a = true := mt (s.writeHazard_iff a).mp hout
    rw [hstep, hostWrite_eq]
    exact congrArg Host.Outcome.next (if_neg hsafe)

/-- Settles O30: the host's turn with an action that can always be encoded. -/
theorem readStatusOnlyRecords : Obligations.ReadStatusOnlyRecords := by
  intro s later more hsched hseq hprog
  have henc : Action.readStatus.encodable s.cfg = true := rfl
  rw [step_host s later .readStatus more hsched hseq hprog, if_pos henc]
  rfl

/-! ## The queue (R221) -/

/-- What each engine step past `ACCEPT` pushes (R155, R174, R193, R195, R197). -/
theorem Seq.body_txq (q : Seq) (s : State) :
    (q.body s).txq = s.txq ++ match q with
      | .spCmd => (encodeAddr s.reqPage (columnOf s.cfg s.reqSub)).bytes
      | .clCmd => (encodeAddr s.clearPage 0).bytes
      | .clData => zeros s.cfg.kPageSize
      | .clOn => [displayOnByte]
      | .inTbl => s.cfg.initTable
      | _ => [] := by
  cases q
  case spCmd | clCmd | clData | clOn | inTbl => rfl
  all_goals exact (List.append_nil s.txq).symm

theorem stepAccept_txq (s t : State) (h : stepAccept s = .next t) : t.txq = s.txq := by
  rcases stepAccept_next s t h with
    ⟨f, info, rfl⟩ | ⟨_, rfl⟩ | ⟨_, _, rfl⟩ | ⟨_, _, _, ⟨_, rfl⟩ | ⟨_, rfl⟩⟩ | ⟨_, rfl⟩ | rfl
  all_goals rfl

theorem hostAct_txq (act : Action) (s : State) : (hostAct act s).txq = s.txq := by
  cases act with
  | request w base => rfl
  | write a v => rw [hostAct, hostWrite_eq]; split <;> rfl
  | readStatus => rfl

/-- The host leaves the queue as it is, and the engine and the DMA append to its tail. -/
theorem agentStep_txq (a : Agent) (s t : State) (hbus : a ≠ .bus) (hen : enabled a s = true)
    (h : agentStep a s = .next t) : ∃ bs : List Byte, t.txq = s.txq ++ bs := by
  rcases agentStep_cases a s t hen h with
    ⟨_, _, act, more, _, _, rfl⟩ | ⟨_, _, hacc⟩ | ⟨_, _, rfl⟩ | ⟨_, _, _, rfl⟩ | ⟨ha, _⟩
  · exact ⟨[], by rw [hostAct_txq, List.append_nil]⟩
  · exact ⟨[], by rw [stepAccept_txq s t hacc, List.append_nil]⟩
  · exact ⟨_, Seq.body_txq s.seq s⟩
  · exact ⟨[Memory.read s.mem s.dmaSrc], rfl⟩
  · exact absurd ha hbus

/-- Settles O51: `agentStep_txq` for the other agents, and the head byte transmitted for the bus. -/
theorem queueIsFirstInFirstOut : Obligations.QueueIsFirstInFirstOut := by
  intro s t h
  refine ⟨fun hother => ?_, fun hbus hne => ?_⟩
  · obtain ⟨_, rfl⟩ | ⟨hen, hstep⟩ := step_next_cases s t h
    · exact ⟨[], by simp⟩
    · simpa using agentStep_txq (nextAgent s) (takeTurn s) t hother hen hstep
  · obtain ⟨b, queue, hq⟩ := List.exists_cons_of_ne_nil hne
    have hturn : (takeTurn s).txq = b :: queue := (takeTurn_txq s).trans hq
    have hen : enabled .bus (takeTurn s) = true := (enabled_bus _).mpr (hturn ▸ List.cons_ne_nil b queue)
    rw [step, hbus, agentTurn_of_enabled _ _ hen, agentStep, busStep_cons _ b queue hturn] at h
    cases h
    exact ⟨b, hq, by simp [State.transmit], rfl⟩

/-! ## Final states (R230) -/

theorem State.Final.disabled (s : State) (hs : s.Final) (a : Agent) : enabled a s = false := by
  obtain ⟨hprog, hseq, _, hq, hrem, _⟩ := hs
  cases a <;> rw [← Bool.not_eq_true]
  case host => simp [enabled_host, hprog]
  case engine => simp [enabled_engine, hseq]
  case dma => simp [enabled_dma, hrem]
  case bus => simp [enabled_bus, hq]

/-- Settles O54: taking the turn keeps a state final, so whoever has the turn holds. -/
theorem finalStatesRest : Obligations.FinalStatesRest := by
  intro s hs
  have hturn : (takeTurn s).Final := by simpa [State.Final] using hs
  exact ⟨hs.disabled, agentTurn_of_disabled _ _ (hturn.disabled _ _)⟩

end Sys2Proof.Machine

/-! The sticky faults (spec 60_exceptions.md): who raises one (R252), and that no step's behaviour depends on those
raised before (R262, R293). -/

namespace Sys2Proof.Machine

/-! ## Who raises a fault (R252) -/

/-- `t` records events past `s` with no fault among them, and has the same `E.fault`. -/
def State.RaisesNothing (s t : State) : Prop :=
  ∃ es : List Event, t.trace = s.trace ++ es ∧ es.filter Event.isFault = [] ∧ t.fault = s.fault

/-- `t` records events past `s` with exactly one fault among them. -/
def State.RaisesOne (s t : State) : Prop :=
  ∃ es : List Event, t.trace = s.trace ++ es ∧ (es.filter Event.isFault).length = 1

/-- A step that leaves the trace and `E.fault` as they are raises nothing. -/
theorem State.raisesNothing_of_kept (s t : State) (htrace : t.trace = s.trace) (hfault : t.fault = s.fault) :
    s.RaisesNothing t :=
  ⟨[], by rw [htrace, List.append_nil], rfl, hfault⟩

theorem stepAccept_raises (s t : State) (h : stepAccept s = .next t) : s.RaisesNothing t ∨ s.RaisesOne t := by
  rcases stepAccept_next s t h with
    ⟨f, info, rfl⟩ | ⟨_, rfl⟩ | ⟨_, _, rfl⟩ | ⟨_, _, _, ⟨_, rfl⟩ | ⟨_, rfl⟩⟩ | ⟨_, rfl⟩ | rfl
  case inl => exact .inr ⟨[.fault f info], rfl, rfl⟩
  case inr.inr.inr.inl.inl => exact .inr ⟨[.fault .sendPageInflight .none], rfl, rfl⟩
  all_goals exact .inl (s.raisesNothing_of_kept _ rfl rfl)

/-- A `WRITE` raises a fault exactly in the hazard (R226). -/
theorem hostWrite_raises (a : Nat) (v : Byte) (s : State) :
    s.RaisesNothing (hostWrite a v s) ∨ s.RaisesOne (hostWrite a v s) := by
  rw [hostWrite_eq]
  split
  · exact .inr ⟨[.fault .fbWriteInflight (.addr a), .hostWr a v], rfl, rfl⟩
  · exact .inl ⟨[.hostWr a v], rfl, rfl, rfl⟩

theorem Seq.filter_isFault_events (q : Seq) : q.events.filter Event.isFault = [] := by cases q <;> rfl

/-- No engine step past `ACCEPT` raises a fault. -/
theorem Seq.body_raisesNothing (s : State) (hseq : s.seq ≠ .accept) : s.RaisesNothing (s.seq.body s) :=
  ⟨s.seq.events, engineStep_trace s _ hseq (engineStep_eq_body s hseq), s.seq.filter_isFault_events, s.seq.body_fault s⟩

/-- An enabled agent's step raises nothing, or it is the engine's at `ACCEPT` or the host's `WRITE` and raises one. -/
theorem agentStep_raises (a : Agent) (s t : State) (hen : enabled a s = true) (h : agentStep a s = .next t) :
    s.RaisesNothing t ∨
      (s.RaisesOne t ∧
        ((a = .engine ∧ s.seq = .accept) ∨ (a = .host ∧ ∃ x v more, s.prog = .write x v :: more))) := by
  rcases agentStep_cases a s t hen h with
    ⟨ha, _, act, more, hprog, _, rfl⟩ | ⟨ha, hseq, hacc⟩ | ⟨_, hseq, rfl⟩ | ⟨_, _, _, rfl⟩ | ⟨_, b, queue, _, rfl⟩
  · cases act with
    | request w base => exact .inl (s.raisesNothing_of_kept _ rfl rfl)
    | write x v =>
      exact (hostWrite_raises x v { s with prog := more }).imp_right fun hone => ⟨hone, .inr ⟨ha, x, v, more, hprog⟩⟩
    | readStatus => exact .inl ⟨[.status _], rfl, rfl, rfl⟩
  · exact (stepAccept_raises s t hacc).imp_right fun hone => ⟨hone, .inl ⟨ha, hseq⟩⟩
  · exact .inl (Seq.body_raisesNothing s hseq)
  · exact .inl ⟨[.dmaRd _ _], rfl, rfl, rfl⟩
  · exact .inl ⟨[.tx _ _ _], rfl, rfl, rfl⟩

/-- A step raises nothing, or it is the engine's at `ACCEPT` or the host's `WRITE` and raises one fault (R252). -/
theorem step_raises (s t : State) (h : step s = .next t) :
    s.RaisesNothing t ∨
      (s.RaisesOne t ∧
        ((nextAgent s = .engine ∧ s.seq = .accept) ∨
          (nextAgent s = .host ∧ ∃ a v more, s.prog = .write a v :: more))) := by
  obtain ⟨_, rfl⟩ | ⟨hen, hstep⟩ := step_next_cases s t h
  · exact .inl (s.raisesNothing_of_kept _ (takeTurn_trace s) (takeTurn_fault s))
  · simpa [State.RaisesNothing, State.RaisesOne] using agentStep_raises (nextAgent s) (takeTurn s) t hen hstep

/-- Settles O46, from the two cases of `step_raises`. -/
theorem onlyAcceptAndWriteRaise : Obligations.OnlyAcceptAndWriteRaise := by
  intro s t h
  obtain ⟨es, htrace, hnone, hfault⟩ | ⟨⟨es, htrace, hone⟩, hwho⟩ := step_raises s t h
  · exact ⟨es, htrace, by simp [hnone], fun _ => hfault, fun hsome => absurd hnone hsome⟩
  · exact ⟨es, htrace, hone.le, fun hnone => by simp [hnone] at hone, fun _ => hwho⟩

/-! ## No step depends on `E.fault` (R262, R293) -/

/-- An event with the value a `STATUS` read recorded left out: the one place where the event of a step shows bits of
`E.fault` that the step did not raise. -/
def Event.maskStatus : Event → Event
  | .status _ => .status 0
  | e => e

/-- A state seen without `E.fault` and without the values of the `STATUS` reads in its trace. -/
def State.maskFault (s : State) : State := { s with fault := 0, trace := s.trace.map Event.maskStatus }

/-- A step's answer, its next state seen without `E.fault`. -/
def maskResult : Result → Result
  | .next t => .next t.maskFault
  | .fault r => .fault r
  | .refused r => .refused r

/-- Masking changes no event but the `STATUS` reads. -/
theorem filter_not_isStatus_map_maskStatus (es : List Event) :
    (es.map Event.maskStatus).filter (fun e => !e.isStatus) = es.filter (fun e => !e.isStatus) := by
  induction es with
  | nil => rfl
  | cons e es ih =>
    rw [List.map_cons, List.filter_cons, List.filter_cons, ih]
    cases e <;> rfl

theorem maskResult_eq_next (r : Result) (t : State) (h : maskResult r = .next t) :
    ∃ u, r = .next u ∧ u.maskFault = t := by
  cases r <;> cases h
  exact ⟨_, rfl, rfl⟩

theorem maskResult_eq_fault (r : Result) (f : Fault) (h : maskResult r = .fault f) : r = .fault f := by
  cases r <;> cases h
  rfl

theorem maskResult_eq_refused (r : Result) (f : Refusal) (h : maskResult r = .refused f) : r = .refused f := by
  cases r <;> cases h
  rfl

/-- States that are the same when masked differ at most in `E.fault` and the trace. -/
theorem State.eq_of_maskFault_eq (t u : State) (h : u.maskFault = t.maskFault) :
    u = { t with fault := u.fault, trace := u.trace } :=
  congrArg (fun x : State => { x with fault := u.fault, trace := u.trace }) h

/-- The checks of the accept rules read no fault bit, and a panel byte is sent by the pins alone (R169, R220). -/
theorem maskResult_exec_withFault (i : Instr) (s : State) (f : BitVec 7) :
    maskResult (exec i { s with fault := f }) = maskResult (exec i s) := by
  cases i with
  | init => simp only [exec, execInit]; split <;> rfl
  | clear => simp only [exec, execClear]; split_ifs <;> rfl
  | sendPage pg sp base => simp only [exec, execSendPage]; split_ifs <;> rfl
  | flush => simp only [exec, execFlush]; split <;> rfl
  | adjustOffset | setColHi | setColLo | setPage | displayOn | displayOff | data => rfl

theorem maskResult_stepAccept_withFault (s : State) (f : BitVec 7) :
    maskResult (stepAccept { s with fault := f }) = maskResult (stepAccept s) := by
  cases hdec : decodeRequest s.reqWord s.reqBase with
  | ok i =>
    rw [stepAccept_of_ok s i hdec, stepAccept_of_ok { s with fault := f } i hdec]
    exact maskResult_exec_withFault i s f
  | error r =>
    rw [stepAccept_of_error s r hdec, stepAccept_of_error { s with fault := f } r hdec]
    rfl

theorem Seq.maskFault_body_withFault (q : Seq) (s : State) (f : BitVec 7) :
    (q.body { s with fault := f }).maskFault = (q.body s).maskFault := by
  cases q <;> rfl

/-- The write hazard reads no fault bit (R226), and the value of a `STATUS` read is masked. -/
theorem maskFault_hostAct_withFault (a : Action) (s : State) (f : BitVec 7) :
    (hostAct a { s with fault := f }).maskFault = (hostAct a s).maskFault := by
  cases a with
  | request w base => rfl
  | write a v =>
    have hsame : State.writeHazard a { s with fault := f } = s.writeHazard a := rfl
    rw [hostAct, hostWrite_eq, hostWrite_eq, hsame]
    split <;> rfl
  | readStatus => simp [hostAct, hostReadStatus, State.emit, State.maskFault, Event.maskStatus, Panel.observe]

theorem maskResult_agentStep_withFault (a : Agent) (s : State) (f : BitVec 7) (hen : enabled a s = true) :
    maskResult (agentStep a { s with fault := f }) = maskResult (agentStep a s) := by
  cases a with
  | host =>
    obtain ⟨act, more, hprog⟩ := List.exists_cons_of_ne_nil ((enabled_host s).mp hen).2
    rw [agentStep, agentStep, hostStep_cons s act more hprog, hostStep_cons { s with fault := f } act more hprog]
    split
    · exact congrArg Host.Outcome.next (maskFault_hostAct_withFault act { s with prog := more } f)
    · rfl
  | engine =>
    rw [agentStep, agentStep]
    by_cases hseq : s.seq = .accept
    · rw [engineStep_of_accept s hseq, engineStep_of_accept { s with fault := f } hseq]
      exact maskResult_stepAccept_withFault s f
    · rw [engineStep_eq_body s hseq, engineStep_eq_body { s with fault := f } hseq]
      exact congrArg Host.Outcome.next (Seq.maskFault_body_withFault s.seq s f)
  | dma =>
    rw [agentStep, agentStep]
    by_cases hfits : s.cfg.fitsAddr s.dmaSrc
    · rw [dmaStep_of_fits s hfits, dmaStep_of_fits { s with fault := f } hfits]
      rfl
    · rw [dmaStep_of_beyond s hfits, dmaStep_of_beyond { s with fault := f } hfits]
  | bus =>
    obtain ⟨b, queue, hq⟩ := List.exists_cons_of_ne_nil ((enabled_bus s).mp hen)
    rw [agentStep, agentStep, busStep_cons s b queue hq, busStep_cons { s with fault := f } b queue hq]
    rfl

theorem enabled_withFault (a : Agent) (s : State) (f : BitVec 7) : enabled a { s with fault := f } = enabled a s := by
  cases a <;> rfl

theorem takeTurn_withFault (s : State) (f : BitVec 7) :
    takeTurn { s with fault := f } = { takeTurn s with fault := f } := by
  cases hsched : s.sched <;> simp only [takeTurn, hsched]

theorem maskResult_agentTurn_withFault (a : Agent) (s : State) (f : BitVec 7) :
    maskResult (agentTurn a { s with fault := f }) = maskResult (agentTurn a s) := by
  cases hen : enabled a s with
  | true =>
    rw [agentTurn_of_enabled a s hen, agentTurn_of_enabled a _ ((enabled_withFault a s f).trans hen)]
    exact maskResult_agentStep_withFault a s f hen
  | false =>
    rw [agentTurn_of_disabled a s hen, agentTurn_of_disabled a _ ((enabled_withFault a s f).trans hen)]
    rfl

/-- A step seen without `E.fault` does not depend on `E.fault`. -/
theorem maskResult_step_withFault (s : State) (f : BitVec 7) :
    maskResult (step { s with fault := f }) = maskResult (step s) := by
  rw [step, step, takeTurn_withFault]
  exact maskResult_agentTurn_withFault (nextAgent s) (takeTurn s) f

/-- Settles O53: the masked steps are equal, both traces grow from the same one, and events equal when masked are as
many, and the same but for the `STATUS` reads. -/
theorem faultBitsChangeNoBehaviour : Obligations.FaultBitsChangeNoBehaviour := by
  intro s f
  have hmask := maskResult_step_withFault s f
  refine ⟨fun t h => ?_, fun r h => ?_, fun r h => ?_⟩
  all_goals rw [h] at hmask
  · obtain ⟨u, hu, halike⟩ := maskResult_eq_next _ _ hmask
    obtain ⟨es, hes⟩ := traceOnlyGrows s t h
    obtain ⟨es', hes'⟩ : ∃ es', u.trace = s.trace ++ es' := traceOnlyGrows { s with fault := f } u hu
    have hevents : es'.map Event.maskStatus = es.map Event.maskStatus := by
      simpa [State.maskFault, hes, hes'] using congrArg State.trace halike
    refine ⟨u.fault, es, es', hes, ?_, ?_, ?_⟩
    · rw [hu, ← hes']
      exact congrArg Host.Outcome.next (State.eq_of_maskFault_eq t u halike)
    · rw [← filter_not_isStatus_map_maskStatus, hevents, filter_not_isStatus_map_maskStatus]
    · simpa using congrArg List.length hevents
  · exact maskResult_eq_fault _ r hmask
  · exact maskResult_eq_refused _ r hmask

end Sys2Proof.Machine

/-! Reset (R280, R282) and the hazards of the wire side (R287, R288): what the discipline says of a queued byte, and
that no step moves a pin such a byte will be sampled with. -/

namespace Sys2Proof.Machine

/-! ## Queued bytes (R287, R288) -/

/-- The positions at which a fault-free run may have a byte queued: where a burst may be in flight or its descriptor
loaded, and the waits of the synchronous sends. -/
def Seq.mayQueue : Seq → Bool
  | .rest | .accept | .spFlag | .flDma | .flDrain => true
  | .spCmdWait | .clCmdWait | .clDataWait | .clOnWait | .inTblWait => true
  | _ => false

/-- A byte is queued only where the discipline has chip-select Asserted (R287). -/
theorem State.Disciplined.of_queued (s : State) (hd : s.Disciplined) (hqueued : s.txq ≠ []) :
    s.seq.mayQueue = true ∧ s.cs = .asserted := by
  unfold State.Disciplined at hd
  split at hd
  case h_1 hseq | h_2 hseq =>
    obtain ⟨⟨_, _, hempty⟩, _⟩ | ⟨_, _, hcs, _⟩ := hd
    · exact absurd hempty hqueued
    · exact ⟨by rw [hseq]; rfl, hcs⟩
  all_goals simp_all [Seq.mayQueue, State.Bursting, State.Sending]

/-- The engine moves on from `IN_TBLWAIT` only once the queue has drained (R156); with a byte queued it holds. -/
theorem step_inTblWait_undrained (s t : State) (hagent : nextAgent s = .engine) (hseq : s.seq = .inTblWait)
    (hqueued : s.txq ≠ []) (h : step s = .next t) : t = takeTurn s := by
  obtain ⟨_, hheld⟩ | ⟨hen, _⟩ := step_next_cases s t h
  · exact hheld
  rw [hagent, enabled_engine] at hen
  have hdrained : (takeTurn s).drained = true := by simpa [State.awaitHolds, hseq] using hen.2
  exact absurd ((takeTurn_txq s).symm.trans ((drained_iff _).mp hdrained)) hqueued

/-- No step of any agent moves chip-select or the mode select while a byte is queued: of the positions that write either
pin, `IN_TBLWAIT` alone may have one queued, and its write waits for the drain (R288). -/
theorem step_pins_of_queued (s t : State) (hd : s.Disciplined) (hqueued : s.txq ≠ []) (h : step s = .next t) :
    t.cs = s.cs ∧ t.dc = s.dc := by
  have hnot (q : Seq) (hq : q.mayQueue = false) : s.seq ≠ q := by
    rintro rfl
    exact Bool.false_ne_true (hq.symm.trans (hd.of_queued s hqueued).1)
  obtain ⟨hcs, hdc, _⟩ := pinsHaveTheirWriters s t h
  constructor
  · by_contra hne
    obtain ⟨hagent, hseq⟩ := hcs hne
    have hwait : s.seq = .inTblWait := by
      simpa [hnot .spCs rfl, hnot .flCs rfl, hnot .clCs rfl, hnot .clEnd rfl, hnot .inPins rfl,
        hnot .inTbl rfl] using hseq
    rw [step_inTblWait_undrained s t hagent hwait hqueued h] at hne
    exact hne (takeTurn_cs s)
  · by_contra hne
    obtain ⟨_, hseq⟩ := hdc hne
    simp [hnot .spCmd rfl, hnot .spDc rfl, hnot .clCmd rfl, hnot .clData rfl, hnot .clOn rfl, hnot .inPins rfl,
      hnot .inTbl rfl] at hseq

/-- Settles O41, from the discipline of a fault-free state. The hypotheses on the step's agent and on its raising no
fault are not used: no other agent, and no step that raises a fault, moves a pin either. -/
theorem queuedBytesKeepTheirPins : Obligations.QueuedBytesKeepTheirPins := by
  intro s t ⟨_, hdisc⟩ hfault hqueued
  have hd := hdisc hfault
  exact ⟨(hd.of_queued s hqueued).2, fun _ h _ => step_pins_of_queued s t hd hqueued h⟩

/-! ## Reset (R280, R282) -/

/-- `STATUS` reads no launch input and nothing of the configuration; at reset it shows `REST` and nothing else (R46,
R280). -/
theorem launch_status (c : Config) (m : Memory) (prog : List Action) (sched : List Agent) :
    (State.launch c m prog sched).status = 0x0010#16 := by
  change State.reset.status = _
  decide

/-- No descriptor is loaded at launch, and none done (R45, R280). -/
theorem launch_dmaStat (c : Config) (m : Memory) (prog : List Action) (sched : List Agent) :
    (State.launch c m prog sched).dmaStat = 0b00#2 := by
  change State.reset.dmaStat = _
  decide

/-- Settles O33: the two views are `launch_dmaStat` and `launch_status`, and every field is the one launch writes. -/
theorem resetFixesItsFields : Obligations.ResetFixesItsFields := by
  rintro c m prog sched _ rfl
  exact ⟨rfl, rfl, rfl, rfl, rfl, rfl, rfl, rfl, rfl, rfl, rfl, rfl, rfl, rfl, rfl,
    launch_dmaStat c m prog sched, launch_status c m prog sched, rfl, rfl, rfl, rfl, rfl⟩

/-- The first fault of a run with nothing recorded yet is all that `E.fault` and the trace show (R250). -/
theorem State.record_first_fault (s : State) (bit : BitVec 7) (e : Event) (hfault : s.fault = 0#7)
    (htrace : s.trace = []) :
    { s with fault := s.fault ||| bit, trace := s.trace ++ [e], seq := .rest } =
      { s with fault := bit, trace := [e], seq := .rest } := by
  rw [hfault, htrace, BitVec.zero_or, List.nil_append]

/-- Settles O34: each request's accept rule with nothing in flight and the block not initialised, and the step of an
illegal word; a dropped request's fault is the first. -/
theorem requestsAtReset : Obligations.RequestsAtReset := by
  rintro c _ rfl
  refine ⟨rfl, (initAtAccept _).2 rfl, (flushAtAccept _).1 rfl, adjustOffsetOnlyReturns.1 _, ?_, fun pg sp base => ?_,
    fun w e hdec => ?_⟩
  · rw [(clearAtAccept _).1 rfl, State.record_first_fault _ _ _ rfl rfl]
    rfl
  · rw [(sendPageAtAccept _ pg sp base).1 rfl, State.record_first_fault _ _ _ rfl rfl]
    rfl
  · rw [illegalWordsAreTheReservedOnesAndAreDropped.2
      { State.resetWith c with seq := .accept, reqWord := w, sched := [.engine] } [] e rfl rfl hdec]
    exact congrArg Host.Outcome.next
      (State.record_first_fault { State.resetWith c with reqWord := w } 0x40#7 (.fault .illegalReq (.word w)) rfl rfl)

end Sys2Proof.Machine
